-- ==== Sys2Proof/Word.lean ====
section
/-! DEFINITION. The words of the block: 8-bit vectors, the 11-bit operation word, its 16-bit stored form, and the line
numbers (00_scope.md R8, 30_encoding.md R71, R75). -/

namespace Sys2Proof

/-- An 8-bit vector; bit `i` belongs to input line `i`, bit 0 least significant (00_scope.md R8). -/
abbrev Byte := BitVec 8

/-- The operation word `w[10:0]` of format `OP` (30_encoding.md R71). -/
abbrev OpWord := BitVec 11

/-- The stored form of an operation word: a 16-bit unsigned integer (30_encoding.md R75). -/
abbrev StoredWord := BitVec 16

/-- An input line, 0 to 7 (00_scope.md R7). -/
abbrev Line := Fin 8

end Sys2Proof
end

