-- ==== Sys2Proof/Syntax.lean ====
section
/-! DEFINITION. The five operations that have an operation word: one constructor per row of spec/opcode_table.json
(30_encoding.md R72). `RESET` has no word (R71); it is an event of Machine/State.lean. -/

namespace Sys2Proof

/-- An operation with its single 8-bit operand D (30_encoding.md R72, R73). -/
inductive Instr where
  /-- `GET_PRESS(mask)`, 42_query.md R120. -/
  | getPress (mask : Byte)
  /-- `GET_RPT(mask)`, 42_query.md R122. -/
  | getRpt (mask : Byte)
  /-- `GET_SHORT(mask)`, 42_query.md R124. -/
  | getShort (mask : Byte)
  /-- `GET_LONG(mask)`, 42_query.md R126. -/
  | getLong (mask : Byte)
  /-- `TICK(raw)`, 40_tick_debounce.md R85; `raw` is the electrical sample (30_encoding.md R73). -/
  | tick (raw : Byte)
deriving DecidableEq, Repr

end Sys2Proof
end

