-- ==== Sys2Proof/WellFormed.lean ====
section
/-! DEFINITION. What is well-formed: the operation words that spell an operation, the stored values that hold one, and
the operations themselves (30_encoding.md R72, R75, R76). -/

namespace Sys2Proof

/-- An operation word spells an operation unless K = 1 and F is not `00` (30_encoding.md R76). -/
def OpWord.legal (w : OpWord) : Bool :=
  !(w.getLsbD 10) || (!(w.getLsbD 9) && !(w.getLsbD 8))

/-- A stored value is well-formed when bits 15 to 11 are zero and its low 11 bits spell an operation
(30_encoding.md R75, R76). -/
def StoredWord.legal (v : StoredWord) : Bool :=
  v.extractLsb' 11 5 == 0 && OpWord.legal (v.extractLsb' 0 11)

/-- Every operation is well-formed with every operand: a query accepts every 8-bit mask (42_query.md R128) and a tick
every raw sample (40_tick_debounce.md R85), and the operand's type is already eight bits wide, so there is no term for
this check to refuse. -/
def Instr.wellFormed : Instr → Bool
  | .getPress _ => true
  | .getRpt _ => true
  | .getShort _ => true
  | .getLong _ => true
  | .tick _ => true

end Sys2Proof
end

