-- ==== Sys2Proof/Decode.lean ====
section
/-! DEFINITION. Decoding of operation words, of their stored form and of byte streams, and the encoder beside them
(30_encoding.md R71 to R77). -/

namespace Sys2Proof

/-- K, the kind: 0 = query, 1 = tick (30_encoding.md R71). -/
def fieldK (w : OpWord) : BitVec 1 := w.extractLsb' 10 1

/-- F, the function: the query select (30_encoding.md R71). -/
def fieldF (w : OpWord) : BitVec 2 := w.extractLsb' 8 2

/-- D, the data: the mask or the raw sample, taken as it stands (30_encoding.md R71, R73). -/
def fieldD (w : OpWord) : Byte := w.extractLsb' 0 8

/-- The query that F selects (30_encoding.md R72; all four values are used, R76). -/
def queryOfF (f : BitVec 2) (mask : Byte) : Instr :=
  if f = 0b00 then .getPress mask
  else if f = 0b01 then .getRpt mask
  else if f = 0b10 then .getShort mask
  else .getLong mask

/-- Operation selection by K and F alone; K = 1 with F not `00` is reserved and refused (30_encoding.md R72, R76). -/
def decodeWord (w : OpWord) : Option Instr :=
  if fieldK w = 0 then some (queryOfF (fieldF w) (fieldD w))
  else if fieldF w = 0 then some (.tick (fieldD w))
  else none

/-- The stored form is decoded from its low 11 bits; a value with a bit above bit 10 spells no operation
(30_encoding.md R75, R76). -/
def decodeStored (v : StoredWord) : Option Instr :=
  if v.extractLsb' 11 5 = 0 then decodeWord (v.extractLsb' 0 11) else none

/-- Two stored bytes as a 16-bit integer, least significant byte first (30_encoding.md R75). -/
def storedOfBytes (lo hi : Byte) : StoredWord := hi ++ lo

/-- Why a byte stream holds no operation at its start. -/
inductive DecodeError where
  /-- "Reserved operation word": the stored value spells no operation (30_encoding.md R76). -/
  | reservedOperationWord (v : StoredWord)
  /-- Fewer than two bytes are left. DESIGN CHOICE (notes/assumptions/6.md), safe. -/
  | incompleteWord
deriving DecidableEq, Repr

/-- What the decoder reads from a byte stream. -/
inductive Decoded where
  /-- An operation and the bytes after it. -/
  | op (i : Instr) (rest : List Byte)
  /-- No operation, by name. -/
  | refused (why : DecodeError)
deriving DecidableEq, Repr

/-- The operation at the start of a stream of stored words: total on any bytes (30_encoding.md R75, R77). -/
def decodeBytes : List Byte → Decoded
  | lo :: hi :: rest =>
    match decodeStored (storedOfBytes lo hi) with
    | some i => .op i rest
    | none => .refused (.reservedOperationWord (storedOfBytes lo hi))
  | _ => .refused .incompleteWord

/-- The instruction of a decoder's answer. -/
def Decoded.instr? : Decoded → Option Instr
  | .op i _ => some i
  | .refused _ => none

/-- K of an operation (30_encoding.md R72). -/
def Instr.kindBits : Instr → BitVec 1
  | .getPress _ => 0
  | .getRpt _ => 0
  | .getShort _ => 0
  | .getLong _ => 0
  | .tick _ => 1

/-- F of an operation (30_encoding.md R72). -/
def Instr.functionBits : Instr → BitVec 2
  | .getPress _ => 0b00
  | .getRpt _ => 0b01
  | .getShort _ => 0b10
  | .getLong _ => 0b11
  | .tick _ => 0b00

/-- The single operand D of an operation (30_encoding.md R73). -/
def Instr.operand : Instr → Byte
  | .getPress mask => mask
  | .getRpt mask => mask
  | .getShort mask => mask
  | .getLong mask => mask
  | .tick raw => raw

/-- The "match" column of the operation's row of 30_encoding.md R72: the word's bits 10 to 8, the others zero. -/
def Instr.rowMatch : Instr → OpWord
  | .getPress _ => 0x000
  | .getRpt _ => 0x100
  | .getShort _ => 0x200
  | .getLong _ => 0x300
  | .tick _ => 0x400

/-- The operation word K : F : D (30_encoding.md R71). -/
def encodeWord (i : Instr) : OpWord := i.kindBits ++ i.functionBits ++ i.operand

/-- The stored form `zext_16(w)` (30_encoding.md R75). -/
def encodeStored (i : Instr) : StoredWord := (encodeWord i).setWidth 16

/-- The low byte of a stored value. -/
def storedLow (v : StoredWord) : Byte := v.extractLsb' 0 8

/-- The high byte of a stored value. -/
def storedHigh (v : StoredWord) : Byte := v.extractLsb' 8 8

/-- The stored bytes of an operation, least significant byte first (30_encoding.md R75). -/
def encode (i : Instr) : List Byte := [storedLow (encodeStored i), storedHigh (encodeStored i)]

/-- The stored value of a table word: its low `nbits` bits, numbered as spec/opcode_table.json numbers them, zeros
above. -/
def tableWord (nbits w : Nat) : StoredWord := BitVec.ofNat 16 (w % 2 ^ nbits)

/-- The instruction the decoder reads from an instruction whose bits are `w`: its bytes are laid out as they are
stored and given to `decodeBytes`. -/
def decodeTableWord (nbits w : Nat) : Option Instr :=
  (decodeBytes [storedLow (tableWord nbits w), storedHigh (tableWord nbits w)]).instr?

end Sys2Proof
end

