-- ==== Sys2Proof/Config.lean ====
section
/-! DEFINITION. The static parameters of the block (00_scope.md R6): fixed before reset is released and written by no
operation (20_memory.md R60). -/

namespace Sys2Proof

/-- `N_LINES`: eight, fixed, not configurable (00_scope.md R6, R7). -/
def nLines : Nat := 8

/-- The configuration record of 00_scope.md R6, an argument of the machine. Every value of every field is legal
(41_tick_press_repeat.md R112). `TICK_PERIOD` has no field: no rule reads it (notes/assumptions/8.md). -/
structure Config where
  /-- `REPEAT_MASK`: bit `i` = 1 when line `i` takes part in auto-repeat. -/
  repeatMask : Byte
  /-- `REPEAT_START`: ticks loaded into `rpt` while no repeat-eligible line is pressed. -/
  repeatStart : Byte
  /-- `REPEAT_NEXT`: ticks loaded into `rpt` when a repeat fires. -/
  repeatNext : Byte
  /-- `ACTIVE_LOW`: a pressed line reads as raw 0. -/
  activeLow : Bool
deriving DecidableEq, Repr

/-- `REPEAT_MASK` is an OPEN parameter: no source gives it a value (00_scope.md R6, 93_implementation_defined.md U2).
DESIGN CHOICE (notes/assumptions/2.md): the state after reset carries this constant, which has no body, so that nothing
can be proved of its value. Safe. -/
opaque Config.openRepeatMask : Byte

/-- The reference configuration of 00_scope.md R6 with a given `REPEAT_MASK`: start 50, next 20, active low. -/
def Config.reference (mask : Byte) : Config :=
  { repeatMask := mask, repeatStart := 50, repeatNext := 20, activeLow := true }

end Sys2Proof
end

