-- ==== Sys2Proof/Machine/State.lean ====
section
/-! DEFINITION. The state of the machine: the six registers of the block, and beside them the model's own fields
(parameters, pending events, result); why a step can stop; the state after reset (10_state.md R20 to R29). -/

namespace Sys2Proof.Machine

/-- The whole state of the block: six 8-bit registers (10_state.md R20). -/
structure Regs where
  /-- `key_state`, the debounced state (10_state.md R21). -/
  keyState : Byte
  /-- `key_press`, the pending press events, sticky (10_state.md R22). -/
  keyPress : Byte
  /-- `key_rpt`, the pending repeat events, sticky (10_state.md R23). -/
  keyRpt : Byte
  /-- `ct0`, the low bit of each line's counter (10_state.md R24, R25). -/
  ct0 : Byte
  /-- `ct1`, the high bit of each line's counter (10_state.md R24, R25). -/
  ct1 : Byte
  /-- `rpt`, the one repeat countdown shared by all lines (10_state.md R26). -/
  rpt : Byte
deriving DecidableEq, Repr

/-- The registers after `RESET`: every one is zero (10_state.md R29). The counters' reset value is not the idle value
(R30). -/
def Regs.reset : Regs :=
  { keyState := 0, keyPress := 0, keyRpt := 0, ct0 := 0, ct1 := 0, rpt := 0 }

/-- An event the environment presents (00_scope.md R9), as a trace stores it: the token `RESET`, or an operation word
in its stored form (30_encoding.md R75, R78). DESIGN CHOICE (notes/assumptions/3.md). -/
inductive Event where
  /-- The token `RESET`; it has no operation word (30_encoding.md R71). -/
  | reset
  /-- A stored operation word, least significant byte first (30_encoding.md R75). -/
  | word (lo hi : Byte)
deriving DecidableEq, Repr

/-- The state of the machine. Only `regs` is state of the block (10_state.md R20); the other three fields are the
model's own, for the types of `exec` and `step` have no other place for them. -/
structure State where
  /-- The six registers. -/
  regs : Regs
  /-- The static parameters, an argument of the step that no step writes (00_scope.md R6, 20_memory.md R60).
  DESIGN CHOICE (notes/assumptions/1.md). -/
  cfg : Config
  /-- The events the environment presents from here on, oldest first (00_scope.md R9).
  DESIGN CHOICE (notes/assumptions/3.md). -/
  pending : List Event
  /-- What the event just performed returned, `none` where it returns nothing (00_scope.md R8, 30_encoding.md R74).
  DESIGN CHOICE (notes/assumptions/4.md). -/
  result : Option Byte
deriving DecidableEq, Repr

/-- Why the machine could stop with a fault: never. The block raises no exception, and "a model's step function
returns a next state in every case and has no fault outcome" (60_exceptions.md R140), so there is no constructor. -/
inductive Fault where
deriving DecidableEq, Repr

/-- Why an event is refused. -/
inductive Refusal where
  /-- An instruction without a meaning. No arm of `exec` raises it: every instruction has its meaning. -/
  | notModelled (mnemonic : String)
  /-- "Reserved operation word": `step` raises it for a stored value that spells no operation (30_encoding.md R76,
  60_exceptions.md R142). It is a refusal by the decoder, outside the hardware, which cannot receive such a word.
  Safe. -/
  | reservedOperationWord (v : StoredWord)
deriving DecidableEq, Repr

/-- The machine right after `RESET` under given parameters, with nothing pending and no result. -/
def State.resetWith (c : Config) : State :=
  { regs := Regs.reset, cfg := c, pending := [], result := none }

/-- The machine right after reset: the registers of 10_state.md R29 under the reference parameters of 00_scope.md R6,
with `REPEAT_MASK` open (notes/assumptions/2.md). -/
def State.reset : State := State.resetWith (Config.reference Config.openRepeatMask)

end Sys2Proof.Machine
end

