-- ==== Sys2Proof/Machine/Operands.lean ====
section
/-! DEFINITION. The operand forms: the polarity correction of the raw sample and the effective masks of the queries.
The block has no immediate, register number or addressing mode (30_encoding.md R73). -/

namespace Sys2Proof.Machine

/-- The raw sample after polarity correction: bit `i` = 1 when line `i` is electrically in the pressed condition
(40_tick_debounce.md R86, 00_scope.md R11). -/
def asserted (c : Config) (raw : Byte) : Byte := if c.activeLow then ~~~raw else raw

/-- The raw sample at which every line reads released: raw 1 when active low, raw 0 otherwise (00_scope.md R7). -/
def releasedLevel (c : Config) : Byte := if c.activeLow then 0xFF else 0x00

/-- The lines `REPEAT_MASK` makes eligible among a vector of lines (41_tick_press_repeat.md R106). -/
def eligible (c : Config) (lines : Byte) : Byte := lines &&& c.repeatMask

/-- The effective mask of `GET_SHORT`: the mask's lines whose debounced state is released (42_query.md R124). -/
def releasedMask (mask : Byte) (r : Regs) : Byte := mask &&& ~~~r.keyState

/-- The effective mask of `GET_LONG`'s second half: the mask's lines with a pending repeat event (42_query.md R126). -/
def repeatedMask (mask : Byte) (r : Regs) : Byte := r.keyRpt &&& mask

end Sys2Proof.Machine
end

