-- ==== Sys2Proof/Machine/Flags.lean ====
section
/-! DEFINITION. The only flags of the block: the sixteen sticky event bits of `key_press` and `key_rpt`
(10_state.md R34). A tick only sets them and a query only clears them (R28). There is no condition code. -/

namespace Sys2Proof.Machine

/-- The pending flags that a mask selects (42_query.md R120, R122). -/
def selectFlags (flags mask : Byte) : Byte := flags &&& mask

/-- Sticky flags with those of `bits` cleared (42_query.md R120, R122). -/
def clearFlags (flags bits : Byte) : Byte := flags &&& ~~~bits

/-- Sticky flags with those of `bits` set; one already 1 stays a single 1 (10_state.md R22, R23). -/
def setFlags (flags bits : Byte) : Byte := flags ||| bits

/-- The press edges of a tick: the lines that toggled and are now pressed (41_tick_press_repeat.md R105). -/
def pressEdges (keyState' commit : Byte) : Byte := keyState' &&& commit

/-- The repeat events of a tick: the eligible pressed lines when the countdown has reached zero, else none
(41_tick_press_repeat.md R107). -/
def repeatEvents (c : Config) (keyState' countdown : Byte) : Byte :=
  if countdown = 0 then eligible c keyState' else 0

end Sys2Proof.Machine
end

