-- ==== Sys2Proof/Machine/Ops.lean ====
section
/-! DEFINITION. The shared operations: fetching the instruction of a pending event, consuming event flags, completing
an atomic event, an idle clock cycle, and `RESET`. There is no memory operation (10_state.md R40) and no exception to
take or to return from (60_exceptions.md R140, R149, R156). -/

namespace Sys2Proof.Machine

/-- The event that carries an operation word in its stored form (30_encoding.md R75). -/
def wordEvent (w : OpWord) : Event := .word (storedLow (w.setWidth 16)) (storedHigh (w.setWidth 16))

/-- The event that carries an operation. -/
def instrEvent (i : Instr) : Event := wordEvent (encodeWord i)

/-- The instruction of a stored operation word; `none` for a reserved one (30_encoding.md R72, R76). -/
def fetchInstr (lo hi : Byte) : Option Instr := (decodeBytes [lo, hi]).instr?

/-- Report the press events that `mask` selects and clear exactly those: the source's query-press (42_query.md R120). -/
def consumePress (mask : Byte) (r : Regs) : Regs × Byte :=
  let reported := selectFlags r.keyPress mask
  ({ r with keyPress := clearFlags r.keyPress reported }, reported)

/-- Report the repeat events that `mask` selects and clear exactly those: the source's query-repeat
(42_query.md R122). -/
def consumeRepeat (mask : Byte) (r : Regs) : Regs × Byte :=
  let reported := selectFlags r.keyRpt mask
  ({ r with keyRpt := clearFlags r.keyRpt reported }, reported)

/-- An atomic event leaves registers and a result; the parameters and the later events stay (20_memory.md R49, R60). -/
def State.complete (s : State) (r : Regs) (result : Option Byte) : State :=
  { s with regs := r, result := result }

/-- A clock cycle with no request: the registers hold and nothing is returned (30_encoding.md R68, R80,
60_exceptions.md R155). DEDUCED (notes/assumptions/5.md). -/
def State.idleCycle (s : State) : State := s.complete s.regs none

/-- `RESET`: the reset value to each of the six registers; no result; the parameters are not touched
(70_reset_and_hazards.md R160). -/
def State.performReset (s : State) : State := s.complete Regs.reset none

end Sys2Proof.Machine
end

