-- ==== Sys2Proof/Machine/Query.lean ====
section
/-! DEFINITION. The four read-and-clear queries (42_query.md R120, R122, R124, R126): each one atomic event that always
succeeds and returns an 8-bit result. -/

namespace Sys2Proof.Machine

/-- `GET_PRESS(mask)` (42_query.md R120). -/
def getPressRegs (mask : Byte) (r : Regs) : Regs × Byte := consumePress mask r

/-- `GET_RPT(mask)` (42_query.md R122). -/
def getRptRegs (mask : Byte) (r : Regs) : Regs × Byte := consumeRepeat mask r

/-- `GET_SHORT(mask)`: query-press on the mask's released lines, `key_state` read in the same atomic event
(42_query.md R124). -/
def getShortRegs (mask : Byte) (r : Regs) : Regs × Byte := consumePress (releasedMask mask r) r

/-- `GET_LONG(mask)`: query-press of query-repeat of the mask, both halves in one atomic event (42_query.md R126). -/
def getLongRegs (mask : Byte) (r : Regs) : Regs × Byte :=
  consumePress (repeatedMask mask r) (consumeRepeat mask r).1

/-- `GET_PRESS(mask)` as an event (42_query.md R120). -/
def execGetPress (mask : Byte) (s : State) : Host.Outcome State Fault Refusal :=
  .next (s.complete (getPressRegs mask s.regs).1 (some (getPressRegs mask s.regs).2))

/-- `GET_RPT(mask)` as an event (42_query.md R122). -/
def execGetRpt (mask : Byte) (s : State) : Host.Outcome State Fault Refusal :=
  .next (s.complete (getRptRegs mask s.regs).1 (some (getRptRegs mask s.regs).2))

/-- `GET_SHORT(mask)` as an event (42_query.md R124). -/
def execGetShort (mask : Byte) (s : State) : Host.Outcome State Fault Refusal :=
  .next (s.complete (getShortRegs mask s.regs).1 (some (getShortRegs mask s.regs).2))

/-- `GET_LONG(mask)` as an event (42_query.md R126). -/
def execGetLong (mask : Byte) (s : State) : Host.Outcome State Fault Refusal :=
  .next (s.complete (getLongRegs mask s.regs).1 (some (getLongRegs mask s.regs).2))

end Sys2Proof.Machine
end

