-- ==== Sys2Proof/Machine/Tick.lean ====
section
/-! DEFINITION. `TICK(raw)`: the six steps S1 to S6 as one atomic event (40_tick_debounce.md R85 to R90,
41_tick_press_repeat.md R105 to R107). Each step is a function of the values the steps before it left. -/

namespace Sys2Proof.Machine

/-- S1: the lines whose input disagrees with their debounced state at this tick (40_tick_debounce.md R86). -/
def changed (c : Config) (raw : Byte) (r : Regs) : Byte := r.keyState ^^^ asserted c raw

/-- S2, `ct0'` (40_tick_debounce.md R88). -/
def nextCt0 (ch ct0 : Byte) : Byte := ~~~(ct0 &&& ch)

/-- S2, `ct1'`, from the new `ct0'` and not from the old one (40_tick_debounce.md R88, 90_conflicts.md C1). -/
def nextCt1 (ch ct0' ct1 : Byte) : Byte := ct0' ^^^ (ct1 &&& ch)

/-- S2, the counters after this tick (40_tick_debounce.md R88). -/
def ct0After (c : Config) (raw : Byte) (r : Regs) : Byte := nextCt0 (changed c raw r) r.ct0

/-- S2, the counters after this tick (40_tick_debounce.md R88). -/
def ct1After (c : Config) (raw : Byte) (r : Regs) : Byte :=
  nextCt1 (changed c raw r) (ct0After c raw r) r.ct1

/-- S3: the lines that toggle at this tick (40_tick_debounce.md R89). -/
def commit (c : Config) (raw : Byte) (r : Regs) : Byte :=
  changed c raw r &&& ct0After c raw r &&& ct1After c raw r

/-- S4: `ks'`, the debounced state after this tick (40_tick_debounce.md R90). -/
def keyStateAfter (c : Config) (raw : Byte) (r : Regs) : Byte := r.keyState ^^^ commit c raw r

/-- S6, `r0`: reloaded when no eligible line is pressed after S4 (41_tick_press_repeat.md R106). -/
def countdownStart (c : Config) (keyState' rpt : Byte) : Byte :=
  if eligible c keyState' = 0 then c.repeatStart else rpt

/-- S6, `r1`: the decrement, unconditional and modulo 256 (41_tick_press_repeat.md R106, R109). -/
def countdown (c : Config) (keyState' rpt : Byte) : Byte := countdownStart c keyState' rpt - 1

/-- S6: `rpt` after this tick (41_tick_press_repeat.md R106). -/
def rptAfter (c : Config) (keyState' rpt : Byte) : Byte :=
  if countdown c keyState' rpt = 0 then c.repeatNext else countdown c keyState' rpt

/-- The fire test of S6 at this tick: the countdown reaches zero (41_tick_press_repeat.md R107, R110). -/
def fires (c : Config) (raw : Byte) (r : Regs) : Bool :=
  countdown c (keyStateAfter c raw r) r.rpt == 0

/-- The registers after `TICK(raw)` (40_tick_debounce.md R85). -/
def tickRegs (c : Config) (raw : Byte) (r : Regs) : Regs :=
  let ks' := keyStateAfter c raw r
  { keyState := ks'
    keyPress := setFlags r.keyPress (pressEdges ks' (commit c raw r))
    keyRpt := setFlags r.keyRpt (repeatEvents c ks' (countdown c ks' r.rpt))
    ct0 := ct0After c raw r
    ct1 := ct1After c raw r
    rpt := rptAfter c ks' r.rpt }

/-- `TICK(raw)`: total, returns nothing (40_tick_debounce.md R85). -/
def execTick (raw : Byte) (s : State) : Host.Outcome State Fault Refusal :=
  .next (s.complete (tickRegs s.cfg raw s.regs) none)

/-- The registers after a finite sequence of ticks, oldest first, with nothing between them. -/
def ticksRegs (c : Config) : List Byte → Regs → Regs
  | [], r => r
  | raw :: raws, r => ticksRegs c raws (tickRegs c raw r)

end Sys2Proof.Machine
end

