-- ==== Sys2Proof/Machine/Dispatch.lean ====
section
/-! DEFINITION. One arm per operation: the meaning of each row of spec/opcode_table.json (30_encoding.md R72). -/

namespace Sys2Proof.Machine

/-- The meaning of an operation: one direct call for each. -/
def exec (i : Instr) (s : State) : Host.Outcome State Fault Refusal :=
  match i with
  | .getPress mask => Sys2Proof.Machine.execGetPress mask s
  | .getRpt mask => Sys2Proof.Machine.execGetRpt mask s
  | .getShort mask => Sys2Proof.Machine.execGetShort mask s
  | .getLong mask => Sys2Proof.Machine.execGetLong mask s
  | .tick raw => Sys2Proof.Machine.execTick raw s

end Sys2Proof.Machine
end

