-- ==== Sys2Proof/Machine/Step.lean ====
section
/-! DEFINITION. One step of the event machine: the oldest pending event is performed on the state its predecessor left
(00_scope.md R9, 20_memory.md R53). -/

namespace Sys2Proof.Machine

/-- One event. With nothing pending the block holds for a clock cycle (60_exceptions.md R155); `RESET` resets; an
operation word is decoded and run, or refused by name without a step being taken (60_exceptions.md R142). -/
def step (s : State) : Host.Outcome State Fault Refusal :=
  match s.pending with
  | [] => .next s.idleCycle
  | .reset :: rest => .next { s with pending := rest }.performReset
  | .word lo hi :: rest =>
    match fetchInstr lo hi with
    | some i => exec i { s with pending := rest }
    | none => .refused (.reservedOperationWord (storedOfBytes lo hi))

/-- `s` with the instruction whose bits are `w` presented by the environment as the very next event
(notes/assumptions/3.md). -/
def State.withFetchWord (s : State) (nbits w : Nat) : State :=
  { s with pending := .word (storedLow (tableWord nbits w)) (storedHigh (tableWord nbits w)) :: s.pending }

end Sys2Proof.Machine
end

