-- ==== Sys2Proof/Machine/Ports.lean ====
section
/-! DEFINITION. The port-level realisation: the inputs of one clock cycle, `q_result`, the registers after the rising
edge, and the translation of a cycle into events (30_encoding.md R65 to R70, R80). The event machine is normative (R65)
and its step does not use this file. -/

namespace Sys2Proof.Machine

/-- The input ports at one rising edge of `clk` (30_encoding.md R66). The clock itself is the succession of such
values (notes/assumptions/9.md). -/
structure PortInputs where
  /-- `rst`: perform `RESET` at this edge. -/
  rst : Bool
  /-- `tick`: perform `TICK(raw)` at this edge. -/
  tick : Bool
  /-- `raw`: read only when `tick` is 1. -/
  raw : Byte
  /-- `q_valid`: perform the query that `q_op` selects at this edge. -/
  qValid : Bool
  /-- `q_op`: the F field of the query. -/
  qOp : BitVec 2
  /-- `q_mask`. -/
  qMask : Byte
deriving DecidableEq, Repr

/-- The events of one clock cycle: `RESET` alone, else the query's word and then the tick's (30_encoding.md R80). -/
def PortInputs.events (p : PortInputs) : List Event :=
  if p.rst then [.reset]
  else
    (if p.qValid then [wordEvent ((0 : BitVec 1) ++ p.qOp ++ p.qMask)] else []) ++
      (if p.tick then [wordEvent ((1 : BitVec 1) ++ (0 : BitVec 2) ++ p.raw)] else [])

/-- The query's answer as a combinational function of the registers before the edge, `q_op` and `q_mask`
(30_encoding.md R68). -/
def queryAnswer (op : BitVec 2) (mask : Byte) (r : Regs) : Byte :=
  if op = 0b00 then r.keyPress &&& mask
  else if op = 0b01 then r.keyRpt &&& mask
  else if op = 0b10 then r.keyPress &&& (mask &&& ~~~r.keyState)
  else r.keyPress &&& (r.keyRpt &&& mask)

/-- `q_result`: meaningful only while `q_valid` is 1 and `rst` is 0; else there is no result (30_encoding.md R66, R68,
93_implementation_defined.md U8). -/
def PortInputs.qResult (p : PortInputs) (r : Regs) : Option Byte :=
  if p.qValid && !p.rst then some (queryAnswer p.qOp p.qMask r) else none

/-- `clr_p`: the bits the query clears from `key_press`, on the state before the edge (30_encoding.md R69). -/
def clearedPress (op : BitVec 2) (mask : Byte) (r : Regs) : Byte :=
  if op = 0b01 then 0 else queryAnswer op mask r

/-- `clr_r`: the bits the query clears from `key_rpt`, on the state before the edge (30_encoding.md R69). -/
def clearedRepeat (op : BitVec 2) (mask : Byte) (r : Regs) : Byte :=
  if op = 0b01 ∨ op = 0b11 then r.keyRpt &&& mask else 0

/-- The registers with the query's clears applied; `key_state`, `ct0`, `ct1` and `rpt` are as before the edge
(30_encoding.md R69). -/
def PortInputs.queryCleared (p : PortInputs) (r : Regs) : Regs :=
  if p.qValid then
    { r with
      keyPress := r.keyPress &&& ~~~clearedPress p.qOp p.qMask r
      keyRpt := r.keyRpt &&& ~~~clearedRepeat p.qOp p.qMask r }
  else r

/-- The registers after the rising edge, in register terms (30_encoding.md R67 to R70). -/
def clockEdge (c : Config) (p : PortInputs) (r : Regs) : Regs :=
  if p.rst then Regs.reset
  else if p.tick then tickRegs c p.raw (p.queryCleared r)
  else p.queryCleared r

/-- The registers after a finite run of clock cycles, oldest first. -/
def clockEdges (c : Config) : List PortInputs → Regs → Regs
  | [], r => r
  | p :: ps, r => clockEdges c ps (clockEdge c p r)

/-- The events of a run of cycles: the concatenation of the per-cycle event lists (30_encoding.md R80). -/
def runEvents (ps : List PortInputs) : List Event := ps.flatMap PortInputs.events

end Sys2Proof.Machine
end

