-- ==== Sys2Proof/Machine/Trace.lean ====
section
/-! DEFINITION. The textual syntax of traces (30_encoding.md R78): lines of characters read into trace lines, and trace
lines into events. What R78 leaves open of the spelling is notes/assumptions/7.md. -/

namespace Sys2Proof.Machine

/-- One line of a trace (30_encoding.md R78). -/
inductive TraceLine where
  /-- Nothing but white space or comment. -/
  | blank
  /-- `RESET`. -/
  | reset
  /-- `TICK 0xHH`, or `TICK xN 0xHH` for `n` consecutive ones. -/
  | ticks (n : Nat) (raw : Byte)
  /-- A query by its F field, with the result the trace expects, if it says one. -/
  | query (op : BitVec 2) (mask : Byte) (expected : Option Byte)
  /-- A query and a tick that share a clock cycle, query first. -/
  | shared (op : BitVec 2) (mask raw : Byte) (expected : Option Byte)
deriving DecidableEq, Repr

/-- A line without its comment. -/
def stripComment (line : List Char) : List Char := line.takeWhile (· != '#')

/-- Split at white space, with `;` a token of its own; `cur` is the token being read, reversed. -/
def tokensFrom (cur : List Char) : List Char → List (List Char)
  | [] => if cur.isEmpty then [] else [cur.reverse]
  | ch :: rest =>
    if ch.isWhitespace then (if cur.isEmpty then tokensFrom [] rest else cur.reverse :: tokensFrom [] rest)
    else if ch = ';' then (if cur.isEmpty then [';'] :: tokensFrom [] rest else cur.reverse :: [';'] :: tokensFrom [] rest)
    else tokensFrom (ch :: cur) rest

/-- The tokens of a line. -/
def tokens (line : List Char) : List (List Char) := tokensFrom [] (stripComment line)

/-- The value of a digit in a base up to 16. -/
def digitValue (base : Nat) (ch : Char) : Option Nat :=
  let n := ch.toNat
  let v := if 48 ≤ n ∧ n ≤ 57 then n - 48
    else if 65 ≤ n ∧ n ≤ 70 then n - 55
    else if 97 ≤ n ∧ n ≤ 102 then n - 87
    else 16
  if v < base then some v else none

/-- The value of a string of digits, read on from `acc`. -/
def digitsFrom (base acc : Nat) : List Char → Option Nat
  | [] => some acc
  | ch :: rest =>
    match digitValue base ch with
    | some v => digitsFrom base (base * acc + v) rest
    | none => none

/-- The value of a string of at least one digit. -/
def digits (base : Nat) (cs : List Char) : Option Nat := if cs.isEmpty then none else digitsFrom base 0 cs

/-- The digits of a binary number without its underscores, `none` where one does not stand alone between two digits;
`afterDigit` says that the character before was a digit. The notation of 00_scope.md R8 shows one such underscore; that
no other place is allowed is DESIGN CHOICE (notes/assumptions/7.md). -/
def dropUnderscores (afterDigit : Bool) : List Char → Option (List Char)
  | [] => if afterDigit then some [] else none
  | ch :: rest =>
    if ch = '_' then (if afterDigit then dropUnderscores false rest else none)
    else (dropUnderscores true rest).map (ch :: ·)

/-- A number: hexadecimal after `0x`, binary after `0b` (with single underscores between digits, DESIGN CHOICE,
notes/assumptions/7.md), else decimal (30_encoding.md R78). -/
def parseNumber : List Char → Option Nat
  | '0' :: 'x' :: ds => digits 16 ds
  | '0' :: 'b' :: ds => (dropUnderscores false ds).bind (digits 2)
  | ds => digits 10 ds

/-- An 8-bit operand (30_encoding.md R78). -/
def parseByte (cs : List Char) : Option Byte :=
  match parseNumber cs with
  | some n => if n < 256 then some (BitVec.ofNat 8 n) else none
  | none => none

/-- The F field of a query's mnemonic (30_encoding.md R72). -/
def parseQuery (cs : List Char) : Option (BitVec 2) :=
  if cs = "GET_PRESS".toList then some 0b00
  else if cs = "GET_RPT".toList then some 0b01
  else if cs = "GET_SHORT".toList then some 0b10
  else if cs = "GET_LONG".toList then some 0b11
  else none

/-- The repetition `xN` of a tick (30_encoding.md R78). -/
def parseRepetition : List Char → Option Nat
  | 'x' :: ds => digits 10 ds
  | _ => none

/-- The operand of a single `TICK 0xHH` (30_encoding.md R78). -/
def parseSingleTick : List (List Char) → Option Byte
  | [op, a] => if op = "TICK".toList then parseByte a else none
  | _ => none

/-- `TICK` with its operand, or with a repetition and its operand (30_encoding.md R78). -/
def parseTick : List (List Char) → Option TraceLine
  | [op, n, a] =>
    if op = "TICK".toList then (parseRepetition n).bind fun k => (parseByte a).map (.ticks k ·) else none
  | ts => (parseSingleTick ts).map (.ticks 1 ·)

/-- A query with its operand and, after `->`, the result the trace expects (30_encoding.md R78). -/
def parseQueryLine : List (List Char) → Option TraceLine
  | [op, a] => (parseQuery op).bind fun q => (parseByte a).map (.query q · none)
  | [op, a, arrow, e] =>
    if arrow = "->".toList then
      (parseQuery op).bind fun q => (parseByte a).bind fun m => (parseByte e).map (fun v => .query q m (some v))
    else none
  | _ => none

/-- A single tick joined to a query of the same cycle (30_encoding.md R78). -/
def joinTick : Option TraceLine → Option Byte → Option TraceLine
  | some (.query q m e), some raw => some (.shared q m raw e)
  | _, _ => none

/-- The line that a list of tokens spells; `none` for a text that spells none (30_encoding.md R78). A shared line holds
one query and one single tick; that no repetition `xN`, not even `x1`, may stand in it is DESIGN CHOICE
(notes/assumptions/7.md). -/
def parseTokens (ts : List (List Char)) : Option TraceLine :=
  match ts with
  | [] => some .blank
  | [op] => if op = "RESET".toList then some .reset else none
  | op :: rest =>
    if op = "TICK".toList then parseTick (op :: rest)
    else if ts.contains [';'] then
      joinTick (parseQueryLine (ts.takeWhile (· != [';']))) (parseSingleTick ((ts.dropWhile (· != [';'])).drop 1))
    else parseQueryLine ts

/-- One line of text (30_encoding.md R78). -/
def parseLine (line : List Char) : Option TraceLine := parseTokens (tokens line)

/-- The events of a line: a shared line means the same as its two lines in that order (30_encoding.md R78). -/
def TraceLine.events : TraceLine → List Event
  | .blank => []
  | .reset => [.reset]
  | .ticks n raw => List.replicate n (instrEvent (.tick raw))
  | .query op mask _ => [instrEvent (queryOfF op mask)]
  | .shared op mask raw _ => [instrEvent (queryOfF op mask), instrEvent (.tick raw)]

/-- Whether a line's expected result is what its query returns on the registers before the line. -/
def TraceLine.expectationMet (l : TraceLine) (r : Regs) : Bool :=
  match l with
  | .query op mask (some e) => queryAnswer op mask r == e
  | .shared op mask _ (some e) => queryAnswer op mask r == e
  | _ => true

/-- The events of a trace, its lines performed in order; `none` if a line spells nothing (30_encoding.md R78). -/
def parseTrace : List (List Char) → Option (List Event)
  | [] => some []
  | line :: lines =>
    match parseLine line, parseTrace lines with
    | some l, some es => some (l.events ++ es)
    | _, _ => none

/-- The events of stored operation words; `none` where a byte is left over (30_encoding.md R75). -/
def eventsOfBytes : List Byte → Option (List Event)
  | [] => some []
  | [_] => none
  | lo :: hi :: rest => (eventsOfBytes rest).map (.word lo hi :: ·)

/-- The mnemonic of an operation (30_encoding.md R72). -/
def instrMnemonic : Instr → List Char
  | .getPress _ => "GET_PRESS".toList
  | .getRpt _ => "GET_RPT".toList
  | .getShort _ => "GET_SHORT".toList
  | .getLong _ => "GET_LONG".toList
  | .tick _ => "TICK".toList

/-- A hexadecimal digit. -/
def hexDigit (n : Nat) : Char := Char.ofNat (if n < 10 then 48 + n else 55 + n)

/-- A byte as `0xHH` (30_encoding.md R78). -/
def formatByte (b : Byte) : List Char := ['0', 'x', hexDigit (b.toNat / 16), hexDigit (b.toNat % 16)]

/-- The trace line of an operation (30_encoding.md R78). -/
def formatInstr (i : Instr) : List Char := instrMnemonic i ++ ' ' :: formatByte i.operand

end Sys2Proof.Machine
end

