-- ==== Sys2Proof/Machine/Lane.lean ====
section
/-! DEFINITION. The debounce filter seen one line at a time: the Boolean form (40_tick_debounce.md R91), the counter's
number V (10_state.md R25), and the per-line machine with explicit states that 40_tick_debounce.md R98 allows in place
of the two bit-sliced registers. The step of the machine does not use this file: it is the second reading that
statements compare with the first. -/

namespace Sys2Proof.Machine

/-- The bits of one line: `key_state[i]`, `ct1[i]`, `ct0[i]` and `key_press[i]` (40_tick_debounce.md R91). -/
structure LaneBits where
  /-- `key_state[i]`. -/
  s : Bool
  /-- `ct1[i]`. -/
  c1 : Bool
  /-- `ct0[i]`. -/
  c0 : Bool
  /-- `key_press[i]`. -/
  p : Bool
deriving DecidableEq, Repr

/-- The bits of line `i` in the registers. -/
def laneBits (r : Regs) (i : Line) : LaneBits :=
  { s := r.keyState.getLsbD i, c1 := r.ct1.getLsbD i, c0 := r.ct0.getLsbD i, p := r.keyPress.getLsbD i }

/-- One tick of one line with `a` = `asserted[i]`: the per-line form of S1 to S5 (40_tick_debounce.md R91,
41_tick_press_repeat.md R105). -/
def laneTick (a : Bool) (l : LaneBits) : LaneBits :=
  let c := l.s ^^ a
  let c0' := !(l.c0 && c)
  let c1' := c0' ^^ (l.c1 && c)
  let m := c && c0' && c1'
  let s' := l.s ^^ m
  { s := s', c1 := c1', c0 := c0', p := l.p || (s' && m) }

/-- V = 2 `ct1[i]` + `ct0[i]`, the number in line `i`'s counter (10_state.md R25). -/
def counterV (r : Regs) (i : Line) : Nat := 2 * (r.ct1.getLsbD i).toNat + (r.ct0.getLsbD i).toNat

/-- How many consecutive disagreeing samples a line has seen: n = 3 - V (10_state.md R25). -/
inductive Streak where
  /-- n = 0, V = 3: idle. -/
  | idle
  /-- n = 1, V = 2. -/
  | one
  /-- n = 2, V = 1. -/
  | two
  /-- n = 3, V = 0: the next disagreeing sample commits; also the state after reset (10_state.md R30). -/
  | three
deriving DecidableEq, Repr

/-- One line's filter with explicit states (40_tick_debounce.md R98). -/
structure LineFilter where
  /-- The debounced state of the line. -/
  pressed : Bool
  /-- The consecutive disagreeing samples seen so far. -/
  streak : Streak
deriving DecidableEq, Repr

/-- One sample `a` = `asserted[i]`: agreement returns to idle at once; the fourth consecutive disagreement toggles
(40_tick_debounce.md R92, R93). -/
def filterTick (a : Bool) (f : LineFilter) : LineFilter :=
  if a = f.pressed then { f with streak := .idle }
  else
    match f.streak with
    | .idle => { f with streak := .one }
    | .one => { f with streak := .two }
    | .two => { f with streak := .three }
    | .three => { pressed := a, streak := .idle }

/-- The number of disagreeing samples that a counter value V stands for (10_state.md R25). -/
def streakOfV : Nat → Streak
  | 0 => .three
  | 1 => .two
  | 2 => .one
  | _ => .idle

/-- The explicit filter that line `i` of the registers stands for (40_tick_debounce.md R98). -/
def filterOf (r : Regs) (i : Line) : LineFilter :=
  { pressed := r.keyState.getLsbD i, streak := streakOfV (counterV r i) }

/-- The explicit filter after a finite sequence of asserted levels, oldest first. -/
def filterTicks : List Bool → LineFilter → LineFilter
  | [], f => f
  | a :: as, f => filterTicks as (filterTick a f)

end Sys2Proof.Machine
end

