-- ==== Sys2Proof/Safety.lean ====
section
/-! DEFINITION. The terms the statements use: outcomes that go on, events that spell an operation, the engine's part of
the registers, the invariants of 10_state.md R32, and the pressed-eligible condition of the repeat timer. -/

namespace Sys2Proof.Machine

/-- The step answers a next state. -/
def Completes (o : Host.Outcome State Fault Refusal) : Prop := ∃ t, o = .next t

/-- An event spells something: `RESET`, or a stored word that holds an operation (30_encoding.md R75, R76). -/
def Event.legal : Event → Bool
  | .reset => true
  | .word lo hi => StoredWord.legal (storedOfBytes lo hi)

/-- The operation of the oldest pending event, where it is one. -/
def State.nextInstr? (s : State) : Option Instr :=
  match s.pending with
  | .word lo hi :: _ => fetchInstr lo hi
  | _ => none

/-- The oldest pending event is `RESET`. -/
def State.resetIsNext (s : State) : Bool := s.pending.head? == some .reset

/-- A query, not a tick (42_query.md). -/
def isQuery : Instr → Bool
  | .getPress _ => true
  | .getRpt _ => true
  | .getShort _ => true
  | .getLong _ => true
  | .tick _ => false

/-- A query that draws on `key_press` (42_query.md R130). -/
def consumesPress : Instr → Bool
  | .getPress _ => true
  | .getRpt _ => false
  | .getShort _ => true
  | .getLong _ => true
  | .tick _ => false

/-- A query that draws on `key_rpt` (42_query.md R130). -/
def consumesRepeat : Instr → Bool
  | .getPress _ => false
  | .getRpt _ => true
  | .getShort _ => false
  | .getLong _ => true
  | .tick _ => false

/-- A finite sequence of operations, oldest first, stopping at the first fault or refusal. -/
def execAll : List Instr → State → Host.Outcome State Fault Refusal
  | [], s => .next s
  | i :: is, s =>
    match exec i s with
    | .next t => execAll is t
    | .fault f => .fault f
    | .refused r => .refused r

/-- An event of the reset or tick source, not of the consumer (20_memory.md R45). -/
def Event.isEngine : Event → Bool
  | .reset => true
  | .word lo hi =>
    match fetchInstr lo hi with
    | some (.tick _) => true
    | _ => false

/-- The registers that only the tick and `RESET` write: `key_state`, `ct0`, `ct1`, `rpt` (42_query.md R131). -/
structure EngineRegs where
  /-- `key_state`. -/
  keyState : Byte
  /-- `ct0`. -/
  ct0 : Byte
  /-- `ct1`. -/
  ct1 : Byte
  /-- `rpt`. -/
  rpt : Byte
deriving DecidableEq, Repr

/-- The engine's part of the registers. -/
def Regs.engine (r : Regs) : EngineRegs :=
  { keyState := r.keyState, ct0 := r.ct0, ct1 := r.ct1, rpt := r.rpt }

/-- A repeat event is pending only for repeat-eligible lines: `key_rpt & ~REPEAT_MASK == 0` (10_state.md R32 (a)). -/
abbrev RepeatsEligible (s : State) : Prop := s.regs.keyRpt &&& ~~~s.cfg.repeatMask = 0

/-- What the reachable states have in common (10_state.md R32 (a) and (d), R31): repeat events are pending only for
eligible lines, and `rpt` is 0 only before the first tick after reset or when `REPEAT_NEXT` is 0. -/
abbrev ReachableInv (s : State) : Prop :=
  RepeatsEligible s ∧ (s.regs.rpt = 0 → s.cfg.repeatNext = 0 ∨ s.regs = Regs.reset)

/-- Some repeat-eligible line is in the pressed state (41_tick_press_repeat.md R106). -/
def eligiblePressed (c : Config) (r : Regs) : Bool := eligible c r.keyState != 0

/-- An interval parameter as a number of ticks: 0 acts as 256 (41_tick_press_repeat.md R112). -/
def intervalTicks (v : Byte) : Nat := if v = 0 then 256 else v.toNat

/-- After every one of the ticks of `raws`, from `r` on, some eligible line is pressed (41_tick_press_repeat.md R111). -/
def heldThroughout (c : Config) : List Byte → Regs → Bool
  | [], _ => true
  | raw :: raws, r => eligiblePressed c (tickRegs c raw r) && heldThroughout c raws (tickRegs c raw r)

/-- After every one of the ticks of `raws`, from `r` on, line `i` is pressed (41_tick_press_repeat.md R115). -/
def lineHeldThroughout (c : Config) (i : Line) : List Byte → Regs → Bool
  | [], _ => true
  | raw :: raws, r => (tickRegs c raw r).keyState.getLsbD i && lineHeldThroughout c i raws (tickRegs c raw r)

/-- The fire test at tick `k` of a sequence of ticks, counted from 0 (41_tick_press_repeat.md R107). -/
def firesAt (c : Config) : List Byte → Nat → Regs → Bool
  | [], _, _ => false
  | raw :: _, 0, r => fires c raw r
  | raw :: raws, k + 1, r => firesAt c raws k (tickRegs c raw r)

/-- The first firing of a sequence of ticks, counted from 0, is at tick `n`, where the sequence is long enough to tell
(41_tick_press_repeat.md R111). -/
def FirstFireAt (c : Config) (raws : List Byte) (n : Nat) (r : Regs) : Prop :=
  (∀ k, k < n → firesAt c raws k r = false) ∧ (n < raws.length → firesAt c raws n r = true)

/-- Line `i` is in the pressed condition at a tick with this raw sample (00_scope.md R11). -/
def lineAsserted (c : Config) (raw : Byte) (i : Line) : Bool := (asserted c raw).getLsbD i

end Sys2Proof.Machine
end

