-- ==== Sys2Proof/Certificates/Slice0/Obligations.lean ====
section
/-! DEFINITION. The statements for the provers, rule by rule of spec/. -/

open Sys2Proof Sys2Proof.Machine

/-! ## Encodings -/

/-- 30_encoding.md R71 to R76: decoding the stored form of an operation gives the operation and the bytes after it, and
the only stored form an operation has is its encoding. -/
def Obligations.StoredWordsRoundTrip : Prop :=
  (∀ (i : Instr) (rest : List Byte), i.wellFormed = true → decodeBytes (encode i ++ rest) = .op i rest) ∧
  (∀ (bytes rest : List Byte) (i : Instr), decodeBytes bytes = .op i rest → bytes = encode i ++ rest)

/-- 30_encoding.md R72: a word spells the operation of a row exactly when `(w & 0x700) == match`, and then its operand
is D; F of a query is `q_op`, D is `q_mask`, D of a tick is `raw`. -/
def Obligations.OperationSelectedByRowMatch : Prop :=
  (∀ (w : OpWord) (i : Instr),
    decodeWord w = some i ↔ w &&& 0x700 = i.rowMatch ∧ w.extractLsb' 0 8 = i.operand) ∧
  (∀ mask : Byte, decodeWord ((0b0 : BitVec 1) ++ (0b00 : BitVec 2) ++ mask) = some (.getPress mask)) ∧
  (∀ mask : Byte, decodeWord ((0b0 : BitVec 1) ++ (0b01 : BitVec 2) ++ mask) = some (.getRpt mask)) ∧
  (∀ mask : Byte, decodeWord ((0b0 : BitVec 1) ++ (0b10 : BitVec 2) ++ mask) = some (.getShort mask)) ∧
  (∀ mask : Byte, decodeWord ((0b0 : BitVec 1) ++ (0b11 : BitVec 2) ++ mask) = some (.getLong mask)) ∧
  (∀ raw : Byte, decodeWord ((0b1 : BitVec 1) ++ (0b00 : BitVec 2) ++ raw) = some (.tick raw))

/-- 30_encoding.md R76: the stored values that spell no operation are exactly those from 0x500 on; a step refuses them
by name and refuses nothing else; they cannot arise at the ports. -/
def Obligations.ReservedWordsRefusedByName : Prop :=
  (∀ v : StoredWord, decodeStored v = none ↔ 0x500 ≤ v.toNat) ∧
  (∀ (s : State) (lo hi : Byte) (rest : List Event), s.pending = .word lo hi :: rest →
    (0x500 ≤ lo.toNat + 256 * hi.toNat ↔
      step s = .refused (.reservedOperationWord (storedOfBytes lo hi)))) ∧
  (∀ (s : State) (why : Refusal), step s = .refused why →
    ∃ lo hi rest, s.pending = .word lo hi :: rest ∧ why = .reservedOperationWord (storedOfBytes lo hi)) ∧
  (∀ (p : PortInputs) (e : Event), e ∈ p.events → e.legal = true)

/-- 30_encoding.md R75: the stored form is the operation word as a 16-bit unsigned integer, least significant byte
first, bits 15 to 11 zero; a stored value with one of those bits set is no operation. -/
def Obligations.StoredFormLittleEndian : Prop :=
  (∀ i : Instr, ∃ lo hi : Byte, encode i = [lo, hi] ∧
    (encodeWord i).toNat = lo.toNat + 256 * hi.toNat ∧ hi.toNat < 8) ∧
  (∀ lo hi : Byte, 8 ≤ hi.toNat → fetchInstr lo hi = none)

/-- Words of 30_encoding.md R72 written out bit by bit, one for each operation (95_test_vectors.md V22). -/
def Obligations.WrittenOutWordsDecode : Prop :=
  decodeWord 0b00011111111 = some (.getPress 0xFF) ∧
  decodeWord 0b00100000110 = some (.getRpt 0x06) ∧
  decodeWord 0b01010100101 = some (.getShort 0xA5) ∧
  decodeWord 0b01100000110 = some (.getLong 0x06) ∧
  decodeWord 0b10011111110 = some (.tick 0xFE)

/-! ## The event machine -/

/-- 00_scope.md R9, 20_memory.md R53: when the oldest pending event is a stored word that decodes to a well-formed
operation, the step is that operation on the state with the event taken away; and the operation that
`withFetchWord` presents is run by the very next step. The list of events is the model's choice
(notes/assumptions/3.md). -/
def Obligations.StepRunsDecodedInstruction : Prop :=
  (∀ (s : State) (lo hi : Byte) (rest : List Event) (i : Instr), s.pending = .word lo hi :: rest →
    decodeBytes [lo, hi] = .op i [] → i.wellFormed = true → step s = exec i { s with pending := rest }) ∧
  (∀ (s : State) (nbits w : Nat) (i : Instr), decodeTableWord nbits w = some i →
    step (s.withFetchWord nbits w) = exec i s)

/-- 60_exceptions.md R155, 30_encoding.md R80: with nothing pending, a step is a clock cycle in which the registers
hold. That an empty list of events stands for such a cycle, and that it returns no result, is the model's reading
(notes/assumptions/5.md). -/
def Obligations.IdleCycleHolds : Prop :=
  ∀ s : State, s.pending = [] → step s = .next { s with result := none }

/-- 60_exceptions.md R140: every one of the five operations and `RESET` is defined for every state, every parameter
value and every argument, and no step has a fault outcome. The last clause takes in the step with nothing pending,
which is the model's reading (notes/assumptions/5.md). -/
def Obligations.NoOperationFaults : Prop :=
  (∀ (i : Instr) (s : State), Completes (exec i s)) ∧
  (∀ (s : State) (rest : List Event), s.pending = .reset :: rest → Completes (step s)) ∧
  (∀ (s : State) (f : Fault), step s ≠ .fault f) ∧
  (∀ s : State, (∀ e ∈ s.pending.head?, e.legal = true) → Completes (step s))

/-- 20_memory.md R60, R53: no step writes a parameter, and a step takes exactly the oldest event. That the parameters
ride in the state is the model's choice (notes/assumptions/1.md). -/
def Obligations.StepKeepsParameters : Prop :=
  ∀ s t : State, step s = .next t → t.cfg = s.cfg ∧ t.pending = s.pending.tail

/-! ## Reset -/

/-- 10_state.md R29: after `RESET` every register is zero. -/
def Obligations.ResetLeavesEveryRegisterZero : Prop :=
  (∀ (s : State) (rest : List Event), s.pending = .reset :: rest →
    step s = .next
      { regs := { keyState := 0x00, keyPress := 0x00, keyRpt := 0x00, ct0 := 0x00, ct1 := 0x00, rpt := 0x00 }
        cfg := s.cfg, pending := rest, result := none }) ∧
  State.reset.regs = { keyState := 0x00, keyPress := 0x00, keyRpt := 0x00, ct0 := 0x00, ct1 := 0x00, rpt := 0x00 } ∧
  (∀ c : Config, (State.resetWith c).regs = State.reset.regs ∧ (State.resetWith c).cfg = c)

/-- 10_state.md R30: after reset every counter has V = 0; a line asserted at the first tick commits at that tick and
its press event is set at once; a line not asserted goes to idle. -/
def Obligations.FirstTickAfterResetCommits : Prop :=
  (∀ i : Line, counterV Regs.reset i = 0) ∧
  (∀ (s : State) (raw : Byte), s.regs = Regs.reset → ∃ t, exec (.tick raw) s = .next t ∧
    ∀ i : Line,
      (lineAsserted s.cfg raw i = true →
        t.regs.keyState.getLsbD i = true ∧ t.regs.keyPress.getLsbD i = true ∧ counterV t.regs i = 3) ∧
      (lineAsserted s.cfg raw i = false →
        t.regs.keyState.getLsbD i = false ∧ t.regs.keyPress.getLsbD i = false ∧ counterV t.regs i = 3))

/-- 10_state.md R31: if the first tick after reset commits an eligible line and some eligible line stays pressed, `rpt`
is decremented from 0 to 255 at that tick and the first repeat event fires at tick index 255; in every other case the
first tick reloads `rpt` with `REPEAT_START` before decrementing it. -/
def Obligations.FirstRepeatAfterHeldReset : Prop :=
  (∀ (c : Config) (raw : Byte), eligiblePressed c (tickRegs c raw Regs.reset) = true →
    (tickRegs c raw Regs.reset).rpt = 255) ∧
  (∀ (c : Config) (raws : List Byte), heldThroughout c raws Regs.reset = true → FirstFireAt c raws 255 Regs.reset) ∧
  (∀ (c : Config) (raw : Byte), eligiblePressed c (tickRegs c raw Regs.reset) = false →
    (tickRegs c raw Regs.reset).rpt = if c.repeatStart = 1 then c.repeatNext else c.repeatStart - 1)

/-! ## TICK, the debounce filter -/

/-- 40_tick_debounce.md R85: `TICK(raw)` performs the six steps of the assembled pseudocode, returns nothing, and is
defined for every `raw` and every state. -/
def Obligations.TickPerformsSixSteps : Prop :=
  ∀ (raw : Byte) (s : State),
    let a := if s.cfg.activeLow then ~~~raw else raw
    let ch := s.regs.keyState ^^^ a
    let c0 := ~~~(s.regs.ct0 &&& ch)
    let c1 := c0 ^^^ (s.regs.ct1 &&& ch)
    let cm := ch &&& c0 &&& c1
    let ks := s.regs.keyState ^^^ cm
    let r0 := if ks &&& s.cfg.repeatMask = 0 then s.cfg.repeatStart else s.regs.rpt
    let r1 := r0 - 1
    exec (.tick raw) s = .next
      { s with
        regs :=
          { keyState := ks
            keyPress := s.regs.keyPress ||| (ks &&& cm)
            keyRpt := if r1 = 0 then s.regs.keyRpt ||| (ks &&& s.cfg.repeatMask) else s.regs.keyRpt
            ct0 := c0
            ct1 := c1
            rpt := if r1 = 0 then s.cfg.repeatNext else r1 }
        result := none }

/-- 40_tick_debounce.md R91: line `i` of `key_state`, `ct1`, `ct0` and `key_press` after a tick is the per-line form
of line `i` before it and of line `i` of the sample, and of nothing else. -/
def Obligations.TickActsLineByLine : Prop :=
  ∀ (raw : Byte) (s : State), ∃ t, exec (.tick raw) s = .next t ∧
    ∀ i : Line, laneBits t.regs i = laneTick (lineAsserted s.cfg raw i) (laneBits s.regs i)

/-- 40_tick_debounce.md R92: the transition table of one line's counter, every row, with the commit of that line read
off as the toggle of its debounced state. -/
def Obligations.CounterFollowsTransitionTable : Prop :=
  ∀ (raw : Byte) (s : State), ∃ t, exec (.tick raw) s = .next t ∧ ∀ i : Line,
    (lineAsserted s.cfg raw i = s.regs.keyState.getLsbD i →
      counterV t.regs i = 3 ∧ t.regs.keyState.getLsbD i = s.regs.keyState.getLsbD i) ∧
    (lineAsserted s.cfg raw i ≠ s.regs.keyState.getLsbD i →
      (counterV s.regs i = 3 → counterV t.regs i = 2 ∧ t.regs.keyState.getLsbD i = s.regs.keyState.getLsbD i) ∧
      (counterV s.regs i = 2 → counterV t.regs i = 1 ∧ t.regs.keyState.getLsbD i = s.regs.keyState.getLsbD i) ∧
      (counterV s.regs i = 1 → counterV t.regs i = 0 ∧ t.regs.keyState.getLsbD i = s.regs.keyState.getLsbD i) ∧
      (counterV s.regs i = 0 → counterV t.regs i = 3 ∧ t.regs.keyState.getLsbD i = !s.regs.keyState.getLsbD i)) ∧
    counterV s.regs i ≤ 3

/-- 40_tick_debounce.md R98: for every start state and every sequence of ticks, line `i` of the two bit-sliced
registers stands for the explicit per-line filter run on line `i` of the samples; after reset the filter is released
with three disagreeing samples seen. -/
def Obligations.BitSlicedFilterIsExplicitFilter : Prop :=
  (∀ (c : Config) (raws : List Byte) (r : Regs) (i : Line),
    filterOf (ticksRegs c raws r) i = filterTicks (raws.map (lineAsserted c · i)) (filterOf r i)) ∧
  (∀ i : Line, filterOf Regs.reset i = { pressed := false, streak := .three })

/-- 40_tick_debounce.md R93: from an idle counter, four consecutive disagreeing samples commit at the fourth and not
before; a disagreement of one, two or three samples is rejected and the counter is idle again. -/
def Obligations.ConfirmWindowIsFourSamples : Prop :=
  ∀ (c : Config) (r : Regs) (i : Line) (x0 x1 x2 x3 : Byte),
    counterV r i = 3 → lineAsserted c x0 i = !r.keyState.getLsbD i →
    ((lineAsserted c x1 i = !r.keyState.getLsbD i → lineAsserted c x2 i = !r.keyState.getLsbD i →
      lineAsserted c x3 i = !r.keyState.getLsbD i →
        (ticksRegs c [x0] r).keyState.getLsbD i = r.keyState.getLsbD i ∧
        (ticksRegs c [x0, x1] r).keyState.getLsbD i = r.keyState.getLsbD i ∧
        (ticksRegs c [x0, x1, x2] r).keyState.getLsbD i = r.keyState.getLsbD i ∧
        (ticksRegs c [x0, x1, x2, x3] r).keyState.getLsbD i = !r.keyState.getLsbD i ∧
        counterV (ticksRegs c [x0, x1, x2, x3] r) i = 3) ∧
     (∀ raws : List Byte, raws = [x0, x1] ∨ (raws = [x0, x1, x2] ∧ lineAsserted c x1 i = !r.keyState.getLsbD i) ∨
        (raws = [x0, x1, x2, x3] ∧ lineAsserted c x1 i = !r.keyState.getLsbD i ∧
          lineAsserted c x2 i = !r.keyState.getLsbD i) →
        (∀ x ∈ raws.getLast?, lineAsserted c x i = r.keyState.getLsbD i) →
        (∀ k, k ≤ raws.length →
          (ticksRegs c (raws.take k) r).keyState.getLsbD i = r.keyState.getLsbD i ∧
          (ticksRegs c (raws.take k) r).keyPress.getLsbD i = r.keyPress.getLsbD i) ∧
        counterV (ticksRegs c raws r) i = 3))

/-- 40_tick_debounce.md R97: after a tick at which line `i` toggles, it does not toggle at the next three; so it
toggles at most once in any four consecutive ticks. -/
def Obligations.OneToggleInFourTicks : Prop :=
  ∀ (c : Config) (r : Regs) (i : Line) (raws : List Byte) (j k : Nat), raws.length ≤ 4 → j < k → k < raws.length →
    (ticksRegs c (raws.take (j + 1)) r).keyState.getLsbD i ≠ (ticksRegs c (raws.take j) r).keyState.getLsbD i →
    (ticksRegs c (raws.take (k + 1)) r).keyState.getLsbD i = (ticksRegs c (raws.take k) r).keyState.getLsbD i

/-- 40_tick_debounce.md R90: `key_state` is written by toggling the committed lines; a committed line takes the level
asserted at this tick, every other line keeps its value. -/
def Obligations.CommittedLinesTakeAssertedLevel : Prop :=
  ∀ (raw : Byte) (s : State), ∃ t, exec (.tick raw) s = .next t ∧
    t.regs.keyState = s.regs.keyState ^^^ commit s.cfg raw s.regs ∧
    ∀ i : Line,
      ((commit s.cfg raw s.regs).getLsbD i = true →
        t.regs.keyState.getLsbD i = lineAsserted s.cfg raw i ∧
        s.regs.keyState.getLsbD i = !lineAsserted s.cfg raw i) ∧
      ((commit s.cfg raw s.regs).getLsbD i = false → t.regs.keyState.getLsbD i = s.regs.keyState.getLsbD i)

/-- 40_tick_debounce.md R85, corner case: with no line pressed, a tick at the released level leaves `key_state`,
`key_press` and `key_rpt` unchanged and sets both counters idle. The premise that no line is pressed is the model's
reading of that corner case (notes/assumptions/10.md). -/
def Obligations.ReleasedTickOnlyIdlesCounters : Prop :=
  ∀ s : State, s.regs.keyState = 0 → ∃ t, exec (.tick (releasedLevel s.cfg)) s = .next t ∧
    t.regs.keyState = s.regs.keyState ∧ t.regs.keyPress = s.regs.keyPress ∧ t.regs.keyRpt = s.regs.keyRpt ∧
    t.regs.ct0 = 0xFF ∧ t.regs.ct1 = 0xFF

/-! ## TICK, press edge and repeat timer -/

/-- 41_tick_press_repeat.md R105: `key_press[i]` is set exactly for the lines that went from released to pressed at
this tick, and no bit is cleared. -/
def Obligations.PressEventsAreRisingEdges : Prop :=
  ∀ (raw : Byte) (s : State), ∃ t, exec (.tick raw) s = .next t ∧ ∀ i : Line,
    t.regs.keyPress.getLsbD i =
      (s.regs.keyPress.getLsbD i || (!s.regs.keyState.getLsbD i && t.regs.keyState.getLsbD i))

/-- 41_tick_press_repeat.md R106 and R109: the countdown as unsigned numbers, with the reload test on `key_state`
after the tick, the unconditional decrement modulo 256 and the zero test after it. -/
def Obligations.CountdownReloadsAndDecrements : Prop :=
  ∀ (raw : Byte) (s : State), ∃ t, exec (.tick raw) s = .next t ∧
    ∀ r0 r1 : Nat,
      r0 = (if t.regs.keyState &&& s.cfg.repeatMask = 0 then s.cfg.repeatStart.toNat else s.regs.rpt.toNat) →
      r1 = (if r0 = 0 then 255 else r0 - 1) →
      t.regs.rpt.toNat = (if r1 = 0 then s.cfg.repeatNext.toNat else r1) ∧
      (fires s.cfg raw s.regs = true ↔ r0 = 1)

/-- 41_tick_press_repeat.md R107: when the countdown reaches zero, `key_rpt[i]` is set for every pressed, eligible line
and for no other; otherwise `key_rpt` is unchanged; no bit is cleared. -/
def Obligations.RepeatEventsForPressedEligibleLines : Prop :=
  ∀ (raw : Byte) (s : State), ∃ t, exec (.tick raw) s = .next t ∧ ∀ i : Line,
    t.regs.keyRpt.getLsbD i =
      (s.regs.keyRpt.getLsbD i ||
        (fires s.cfg raw s.regs && t.regs.keyState.getLsbD i && s.cfg.repeatMask.getLsbD i))

/-- 41_tick_press_repeat.md R113: for `REPEAT_START` at least 2, after every tick at which no eligible line is pressed,
`rpt` is `REPEAT_START` - 1. -/
def Obligations.RestingCountdownIsStartMinusOne : Prop :=
  ∀ (c : Config) (raw : Byte) (r : Regs), 2 ≤ c.repeatStart.toNat →
    eligiblePressed c (tickRegs c raw r) = false → (tickRegs c raw r).rpt.toNat = c.repeatStart.toNat - 1

/-- The firings of a held timer from any state (41_tick_press_repeat.md R106 to R109): with some eligible line pressed
after every tick, tick `k` fires exactly when the ticks so far reach the value `rpt` started with, or exceed it by a
multiple of `REPEAT_NEXT`, 0 standing for 256 in both. -/
def Obligations.HeldTimerFiringTicks : Prop :=
  ∀ (c : Config) (raws : List Byte) (r : Regs), heldThroughout c raws r = true →
    ∀ k, k < raws.length →
      (firesAt c raws k r = true ↔
        intervalTicks r.rpt ≤ k + 1 ∧ (k + 1 - intervalTicks r.rpt) % intervalTicks c.repeatNext = 0)

/-- 41_tick_press_repeat.md R111: let no eligible line be pressed after tick L and some eligible line after every tick
from L + 1 on. The first repeat fires at tick L + `REPEAT_START` - 1, later ones at every `REPEAT_NEXT`-th tick after
it, and each firing sets the bits of the eligible lines pressed at that tick. Tick L + 1 is the tick with index 0. -/
def Obligations.RepeatFiresAfterStartThenEveryNext : Prop :=
  ∀ (c : Config) (rawL : Byte) (r : Regs) (raws : List Byte),
    2 ≤ c.repeatStart.toNat → 1 ≤ c.repeatNext.toNat →
    eligiblePressed c (tickRegs c rawL r) = false → heldThroughout c raws (tickRegs c rawL r) = true →
    (tickRegs c rawL r).rpt.toNat = c.repeatStart.toNat - 1 ∧
    ∀ k, k < raws.length →
      (firesAt c raws k (tickRegs c rawL r) = true ↔
        c.repeatStart.toNat - 1 ≤ k + 1 ∧
          (k + 1 - (c.repeatStart.toNat - 1)) % c.repeatNext.toNat = 0) ∧
      (ticksRegs c (raws.take (k + 1)) (tickRegs c rawL r)).keyRpt =
        (ticksRegs c (raws.take k) (tickRegs c rawL r)).keyRpt |||
          (if firesAt c raws k (tickRegs c rawL r) = true then
            (ticksRegs c (raws.take (k + 1)) (tickRegs c rawL r)).keyState &&& c.repeatMask else 0)

/-- 41_tick_press_repeat.md R112, the parameter corner cases (a) to (f). The tick with index 0 is tick T, the first at
which an eligible line is pressed after a tick at which none was. -/
def Obligations.ParameterCornerCases : Prop :=
  (∀ (c : Config) (rawL : Byte) (r : Regs), eligiblePressed c (tickRegs c rawL r) = false →
    (c.repeatStart = 1 →
      (tickRegs c rawL r).keyRpt = r.keyRpt ∧ (tickRegs c rawL r).rpt = c.repeatNext ∧
      ∀ raws, heldThroughout c raws (tickRegs c rawL r) = true →
        FirstFireAt c raws (intervalTicks c.repeatNext - 1) (tickRegs c rawL r)) ∧
    (c.repeatStart = 0 →
      (tickRegs c rawL r).rpt = 255 ∧
      ∀ raws, heldThroughout c raws (tickRegs c rawL r) = true → FirstFireAt c raws 254 (tickRegs c rawL r)) ∧
    (c.repeatStart = 2 →
      ∀ raws, heldThroughout c raws (tickRegs c rawL r) = true → FirstFireAt c raws 0 (tickRegs c rawL r))) ∧
  (∀ (c : Config) (raw : Byte) (r : Regs) (raws : List Byte), fires c raw r = true →
    heldThroughout c raws (tickRegs c raw r) = true →
    (c.repeatNext = 0 → FirstFireAt c raws 255 (tickRegs c raw r)) ∧
    (c.repeatNext = 1 → ∀ k, k < raws.length → firesAt c raws k (tickRegs c raw r) = true)) ∧
  (∀ (c : Config) (raws : List Byte) (r : Regs), c.repeatMask = 0 →
    (∀ k, k ≤ raws.length → eligiblePressed c (ticksRegs c (raws.take k) r) = false) ∧
    (ticksRegs c raws r).keyRpt = r.keyRpt) ∧
  (∀ (s : State) (mask : Byte), s.cfg.repeatMask = 0 → RepeatsEligible s →
    (∃ t, exec (.getRpt mask) s = .next t ∧ t.result = some 0x00) ∧
    (∃ t, exec (.getLong mask) s = .next t ∧ t.result = some 0x00))

/-- 41_tick_press_repeat.md R115, the boundary between a short and a long press: let line `i` be repeat-eligible, no
eligible line be pressed after the last reload tick, and line `i` stay pressed at every tick after it. Its repeat event
is pending after `n` such ticks exactly when `n` is at least `REPEAT_START` - 1, that is from tick T + `REPEAT_START` - 2
on. -/
def Obligations.LongPressBoundary : Prop :=
  ∀ (c : Config) (rawL : Byte) (r : Regs) (i : Line) (raws : List Byte), 2 ≤ c.repeatStart.toNat →
    c.repeatMask.getLsbD i = true → eligiblePressed c (tickRegs c rawL r) = false →
    (tickRegs c rawL r).keyRpt.getLsbD i = false → lineHeldThroughout c i raws (tickRegs c rawL r) = true →
    ∀ n, n ≤ raws.length →
      ((ticksRegs c (raws.take n) (tickRegs c rawL r)).keyRpt.getLsbD i = true ↔ c.repeatStart.toNat - 1 ≤ n)

/-- 41_tick_press_repeat.md R108: as long as some eligible line stays pressed and the countdown does not fire, it runs
on, whichever eligible lines come and go: after `k` held ticks without a firing it has lost exactly `k`. -/
def Obligations.SharedCountdownRunsOnWhileHeld : Prop :=
  ∀ (c : Config) (raws : List Byte) (r : Regs), heldThroughout c raws r = true →
    (∀ k, k < raws.length → firesAt c raws k r = false) →
    (ticksRegs c raws r).rpt = r.rpt - BitVec.ofNat 8 raws.length

/-! ## Invariants -/

/-- 10_state.md R32 (a) and (d) with R31: every step keeps the invariant of the reachable states. -/
def Obligations.StepKeepsReachableInvariant : Prop :=
  ∀ s t : State, ReachableInv s → step s = .next t → ReachableInv t

/-- The invariant of the reachable states holds right after reset, under every configuration. -/
def Obligations.ResetMeetsReachableInvariant : Prop :=
  ReachableInv State.reset ∧ ∀ c : Config, ReachableInv (State.resetWith c)

/-- 10_state.md R32 (b), (c) and (d): after any tick, the counter of every line that agreed or committed is idle, and
`rpt` is 0 only if `REPEAT_NEXT` is 0. -/
def Obligations.AfterTickAgreedOrCommittedIsIdle : Prop :=
  ∀ (raw : Byte) (s : State), ∃ t, exec (.tick raw) s = .next t ∧
    (∀ i : Line, (changed s.cfg raw s.regs).getLsbD i = false ∨ (commit s.cfg raw s.regs).getLsbD i = true →
      t.regs.ct0.getLsbD i = true ∧ t.regs.ct1.getLsbD i = true) ∧
    (t.regs.rpt = 0 → s.cfg.repeatNext = 0)

/-- 10_state.md R28: a bit of `key_press` or `key_rpt` goes from 0 to 1 only in a tick and from 1 to 0 only in a query
or at reset; `key_state` is written only by a tick, or at reset. -/
def Obligations.TicksSetAndQueriesClear : Prop :=
  ∀ (s t : State) (i : Line), step s = .next t →
    ((s.regs.keyPress.getLsbD i = false ∧ t.regs.keyPress.getLsbD i = true) ∨
      (s.regs.keyRpt.getLsbD i = false ∧ t.regs.keyRpt.getLsbD i = true) →
        ∃ raw, s.nextInstr? = some (.tick raw)) ∧
    ((s.regs.keyPress.getLsbD i = true ∧ t.regs.keyPress.getLsbD i = false) ∨
      (s.regs.keyRpt.getLsbD i = true ∧ t.regs.keyRpt.getLsbD i = false) →
        s.resetIsNext = true ∨ ∃ q, s.nextInstr? = some q ∧ isQuery q = true) ∧
    (s.regs.keyState.getLsbD i ≠ t.regs.keyState.getLsbD i →
        s.resetIsNext = true ∨ ∃ raw, s.nextInstr? = some (.tick raw))

/-- 20_memory.md R53 and R54: no event is lost. A pending press event disappears only by being reported or at reset; a
pending repeat event only by being reported, by a `GET_LONG` whose mask covers its line, or at reset. -/
def Obligations.NoEventIsLost : Prop :=
  ∀ (s t : State) (i : Line), step s = .next t → s.resetIsNext = false →
    (s.regs.keyPress.getLsbD i = true → t.regs.keyPress.getLsbD i = false →
      ∃ v, t.result = some v ∧ v.getLsbD i = true) ∧
    (s.regs.keyRpt.getLsbD i = true → t.regs.keyRpt.getLsbD i = false →
      (∃ v, t.result = some v ∧ v.getLsbD i = true) ∨
      ∃ mask : Byte, s.nextInstr? = some (.getLong mask) ∧ mask.getLsbD i = true)

/-! ## Queries -/

/-- 42_query.md R120: `GET_PRESS(mask)`, its word, its result bit by bit, what it clears, and that everything else is
untouched. -/
def Obligations.GetPressReportsAndClears : Prop :=
  ∀ (mask : Byte) (s : State),
    decodeWord ((0b000 : BitVec 3) ++ mask) = some (.getPress mask) ∧
    exec (.getPress mask) s = .next
      { s with
        regs := { s.regs with keyPress := s.regs.keyPress &&& ~~~(s.regs.keyPress &&& mask) }
        result := some (s.regs.keyPress &&& mask) } ∧
    ∀ (t : State) (v : Byte) (i : Line), exec (.getPress mask) s = .next t → t.result = some v →
      (v.getLsbD i = true ↔ mask.getLsbD i = true ∧ s.regs.keyPress.getLsbD i = true) ∧
      t.regs.keyPress.getLsbD i = (s.regs.keyPress.getLsbD i && !mask.getLsbD i)

/-- 42_query.md R122: `GET_RPT(mask)`, its word, its result bit by bit, what it clears, and that everything else, the
timer among it, is untouched; a line outside `REPEAT_MASK` is never reported in a reachable state. -/
def Obligations.GetRptReportsAndClears : Prop :=
  ∀ (mask : Byte) (s : State),
    decodeWord ((0b001 : BitVec 3) ++ mask) = some (.getRpt mask) ∧
    exec (.getRpt mask) s = .next
      { s with
        regs := { s.regs with keyRpt := s.regs.keyRpt &&& ~~~(s.regs.keyRpt &&& mask) }
        result := some (s.regs.keyRpt &&& mask) } ∧
    ∀ (t : State) (v : Byte) (i : Line), exec (.getRpt mask) s = .next t → t.result = some v →
      (v.getLsbD i = true ↔ mask.getLsbD i = true ∧ s.regs.keyRpt.getLsbD i = true) ∧
      t.regs.keyRpt.getLsbD i = (s.regs.keyRpt.getLsbD i && !mask.getLsbD i) ∧
      (RepeatsEligible s → s.cfg.repeatMask.getLsbD i = false → v.getLsbD i = false)

/-- 42_query.md R124: `GET_SHORT(mask)`, its word, its result bit by bit, what it clears, and that everything else is
untouched; a press event of a line still pressed is neither reported nor cleared. -/
def Obligations.GetShortReportsReleasedPresses : Prop :=
  ∀ (mask : Byte) (s : State),
    decodeWord ((0b010 : BitVec 3) ++ mask) = some (.getShort mask) ∧
    exec (.getShort mask) s = .next
      { s with
        regs := { s.regs with
          keyPress := s.regs.keyPress &&& ~~~(s.regs.keyPress &&& (mask &&& ~~~s.regs.keyState)) }
        result := some (s.regs.keyPress &&& (mask &&& ~~~s.regs.keyState)) } ∧
    ∀ (t : State) (v : Byte) (i : Line), exec (.getShort mask) s = .next t → t.result = some v →
      (v.getLsbD i = true ↔
        mask.getLsbD i = true ∧ s.regs.keyPress.getLsbD i = true ∧ s.regs.keyState.getLsbD i = false) ∧
      t.regs.keyPress.getLsbD i = (s.regs.keyPress.getLsbD i && !v.getLsbD i) ∧
      (s.regs.keyState.getLsbD i = true → t.regs.keyPress.getLsbD i = s.regs.keyPress.getLsbD i)

/-- 42_query.md R126: `GET_LONG(mask)`, its word, its result bit by bit, what it clears in both event vectors, and that
everything else is untouched. -/
def Obligations.GetLongReportsRepeatedPresses : Prop :=
  ∀ (mask : Byte) (s : State),
    decodeWord ((0b011 : BitVec 3) ++ mask) = some (.getLong mask) ∧
    exec (.getLong mask) s = .next
      { s with
        regs := { s.regs with
          keyRpt := s.regs.keyRpt &&& ~~~(s.regs.keyRpt &&& mask)
          keyPress := s.regs.keyPress &&& ~~~(s.regs.keyPress &&& (s.regs.keyRpt &&& mask)) }
        result := some (s.regs.keyPress &&& (s.regs.keyRpt &&& mask)) } ∧
    ∀ (t : State) (v : Byte) (i : Line), exec (.getLong mask) s = .next t → t.result = some v →
      (v.getLsbD i = true ↔
        mask.getLsbD i = true ∧ s.regs.keyRpt.getLsbD i = true ∧ s.regs.keyPress.getLsbD i = true) ∧
      t.regs.keyRpt.getLsbD i = (s.regs.keyRpt.getLsbD i && !mask.getLsbD i) ∧
      t.regs.keyPress.getLsbD i = (s.regs.keyPress.getLsbD i && !v.getLsbD i) ∧
      (RepeatsEligible s → s.cfg.repeatMask.getLsbD i = false → v.getLsbD i = false)

/-- 42_query.md R128: every query accepts every mask in every state and returns a result; a mask of 0x00 returns 0x00
and changes no register. -/
def Obligations.QueriesAreTotal : Prop :=
  (∀ (q : Instr) (s : State), isQuery q = true → ∃ t v, exec q s = .next t ∧ t.result = some v) ∧
  (∀ (q : Instr) (s : State), isQuery q = true → q.operand = 0x00 →
    exec q s = .next { s with result := some 0x00 })

/-- 42_query.md R129: the same query issued again with no tick between, whatever queries stand between, returns
0x00. -/
def Obligations.SameQueryTwiceReturnsZero : Prop :=
  ∀ (q : Instr) (between : List Instr) (s : State), isQuery q = true → (∀ p ∈ between, isQuery p = true) →
    ∃ t1 t2 t3, exec q s = .next t1 ∧ execAll between t1 = .next t2 ∧ exec q t2 = .next t3 ∧
      t3.result = some 0x00

/-- 42_query.md R130: a result is a subset of the mask, and each reported bit was 1 in `key_press` before (for
`GET_RPT`: in `key_rpt`); a press event reported by one query is reported by no later press-consuming query until a
tick, and a repeat event in the mask of `GET_RPT` or `GET_LONG` is gone for both. -/
def Obligations.ResultsAreSharedSubsets : Prop :=
  (∀ (q : Instr) (s t : State) (v : Byte) (i : Line), isQuery q = true → exec q s = .next t → t.result = some v →
    v.getLsbD i = true →
      q.operand.getLsbD i = true ∧
      (consumesPress q = true → s.regs.keyPress.getLsbD i = true) ∧
      (consumesRepeat q = true → s.regs.keyRpt.getLsbD i = true)) ∧
  (∀ (q q' : Instr) (between : List Instr) (s t1 t2 t3 : State) (v v' : Byte) (i : Line),
    (∀ p ∈ between, isQuery p = true) →
    exec q s = .next t1 → execAll between t1 = .next t2 → exec q' t2 = .next t3 →
    t1.result = some v → t3.result = some v' →
      (consumesPress q = true → consumesPress q' = true → v.getLsbD i = true → v'.getLsbD i = false) ∧
      (consumesRepeat q = true → consumesRepeat q' = true → q.operand.getLsbD i = true → v'.getLsbD i = false))

/-- 42_query.md R127: `GET_RPT(mask)` and then `GET_PRESS` of its result leave the registers and return the result of
`GET_LONG(mask)`; a tick between the two can add reported lines within the first result but never remove one. -/
def Obligations.GetLongIsGetRptThenGetPress : Prop :=
  (∀ (mask : Byte) (s : State), ∃ t1 q t2 t,
    exec (.getRpt mask) s = .next t1 ∧ t1.result = some q ∧ exec (.getPress q) t1 = .next t2 ∧
    exec (.getLong mask) s = .next t ∧ t2 = t) ∧
  (∀ (mask raw : Byte) (s : State), ∃ t1 q t2 t3 t v v',
    exec (.getRpt mask) s = .next t1 ∧ t1.result = some q ∧ exec (.tick raw) t1 = .next t2 ∧
    exec (.getPress q) t2 = .next t3 ∧ t3.result = some v ∧
    exec (.getLong mask) s = .next t ∧ t.result = some v' ∧
    ∀ i : Line, (v'.getLsbD i = true → v.getLsbD i = true) ∧ (v.getLsbD i = true → q.getLsbD i = true))

/-- 30_encoding.md R79: `GET_SHORT(mask)` behaves as `GET_PRESS(mask & ~key_state)`. -/
def Obligations.GetShortIsGetPressOnReleased : Prop :=
  ∀ (mask : Byte) (s : State), ∃ t, exec (.getShort mask) s = .next t ∧
    exec (.getPress (mask &&& ~~~s.regs.keyState)) s = .next t

/-- 10_state.md R27, the rows of the four queries and of `RESET`: an operation writes no register not marked W, and
what it writes and returns depends on no register not marked R and on no parameter. -/
def Obligations.AccessMatrixOfQueriesAndReset : Prop :=
  (∀ (mask : Byte) (s s' : State), s'.regs.keyPress = s.regs.keyPress →
    ∃ t t', exec (.getPress mask) s = .next t ∧ exec (.getPress mask) s' = .next t' ∧
      t.regs = { s.regs with keyPress := t.regs.keyPress } ∧
      t'.regs.keyPress = t.regs.keyPress ∧ t'.result = t.result) ∧
  (∀ (mask : Byte) (s s' : State), s'.regs.keyRpt = s.regs.keyRpt →
    ∃ t t', exec (.getRpt mask) s = .next t ∧ exec (.getRpt mask) s' = .next t' ∧
      t.regs = { s.regs with keyRpt := t.regs.keyRpt } ∧
      t'.regs.keyRpt = t.regs.keyRpt ∧ t'.result = t.result) ∧
  (∀ (mask : Byte) (s s' : State), s'.regs.keyPress = s.regs.keyPress → s'.regs.keyState = s.regs.keyState →
    ∃ t t', exec (.getShort mask) s = .next t ∧ exec (.getShort mask) s' = .next t' ∧
      t.regs = { s.regs with keyPress := t.regs.keyPress } ∧
      t'.regs.keyPress = t.regs.keyPress ∧ t'.result = t.result) ∧
  (∀ (mask : Byte) (s s' : State), s'.regs.keyPress = s.regs.keyPress → s'.regs.keyRpt = s.regs.keyRpt →
    ∃ t t', exec (.getLong mask) s = .next t ∧ exec (.getLong mask) s' = .next t' ∧
      t.regs = { s.regs with keyPress := t.regs.keyPress, keyRpt := t.regs.keyRpt } ∧
      t'.regs.keyPress = t.regs.keyPress ∧ t'.regs.keyRpt = t.regs.keyRpt ∧ t'.result = t.result) ∧
  (∀ (s s' : State), s.resetIsNext = true → s'.resetIsNext = true →
    ∃ t t', step s = .next t ∧ step s' = .next t' ∧ t'.regs = t.regs ∧ t'.result = t.result)

/-- 42_query.md R131: no query changes `key_state`, `ct0`, `ct1` or `rpt`; after any two runs whose tick and reset
events are the same sequence, whatever queries the consumer puts between them, those registers are the same. -/
def Obligations.QueriesDoNotDisturbEngine : Prop :=
  (∀ (q : Instr) (s : State), isQuery q = true → ∃ t, exec q s = .next t ∧ t.regs.engine = s.regs.engine) ∧
  (∀ s s' : State, s.cfg = s'.cfg → s.regs.engine = s'.regs.engine →
    (∀ e ∈ s.pending, e.legal = true) → (∀ e ∈ s'.pending, e.legal = true) →
    s.pending.filter Event.isEngine = s'.pending.filter Event.isEngine →
    ∃ t t' : State, Sys2Proof.core.run s.pending.length s = .next t ∧
      Sys2Proof.core.run s'.pending.length s' = .next t' ∧ t.regs.engine = t'.regs.engine)

/-! ## Ports -/

/-- 30_encoding.md R80 with R67 to R70: over any run of clock cycles, the registers that the port-level description
gives are those of the event machine run on the concatenation of the cycles' event lists. -/
def Obligations.PortsRefineEventMachine : Prop :=
  ∀ (ps : List PortInputs) (s : State) (later : List Event), s.pending = runEvents ps ++ later →
    ∃ t : State, Sys2Proof.core.run (runEvents ps).length s = .next t ∧
      t.regs = clockEdges s.cfg ps s.regs ∧ t.cfg = s.cfg ∧ t.pending = later

/-- 30_encoding.md R68: `q_result` is what the query event of the cycle returns, computed on the registers before the
edge; without a query, or under reset, there is none. -/
def Obligations.QResultIsQueryEventResult : Prop :=
  (∀ (p : PortInputs) (s : State) (later : List Event), p.rst = false → p.qValid = true →
    s.pending = p.events ++ later →
    ∃ t, step s = .next t ∧ t.result = p.qResult s.regs ∧ t.result.isSome = true ∧
      t.regs = p.queryCleared s.regs) ∧
  (∀ (p : PortInputs) (r : Regs), p.rst = true ∨ p.qValid = false → p.qResult r = none)

/-- 20_memory.md R57: a tick and a query in one cycle take effect query first, then tick, and an event bit that the
query clears and the tick sets is 1 afterwards. -/
def Obligations.SameCycleQueryThenTick : Prop :=
  ∀ (p : PortInputs) (s : State) (later : List Event), p.rst = false → p.tick = true → p.qValid = true →
    s.pending = p.events ++ later →
    ∃ t1 t2, exec (queryOfF p.qOp p.qMask) { s with pending := later } = .next t1 ∧
      exec (.tick p.raw) t1 = .next t2 ∧ t2.regs = clockEdge s.cfg p s.regs ∧
      p.qResult s.regs = t1.result ∧
      ∀ i : Line,
        (s.regs.keyState.getLsbD i = false → t2.regs.keyState.getLsbD i = true →
          t2.regs.keyPress.getLsbD i = true) ∧
        (fires s.cfg p.raw s.regs = true → t2.regs.keyState.getLsbD i = true →
          s.cfg.repeatMask.getLsbD i = true → t2.regs.keyRpt.getLsbD i = true)

/-- 20_memory.md R58: `RESET` overrides a tick or query of the same cycle. -/
def Obligations.ResetOverridesSameCycle : Prop :=
  ∀ (p : PortInputs) (s : State) (later : List Event), p.rst = true → s.pending = p.events ++ later →
    clockEdge s.cfg p s.regs = Regs.reset ∧ p.qResult s.regs = none ∧
    ∃ t, step s = .next t ∧ t.regs = Regs.reset ∧ t.result = none ∧ t.cfg = s.cfg ∧ t.pending = later

/-! ## Trace text -/

/-- 30_encoding.md R78: the line of an operation is read back as that one event; a query line may carry the result the
trace expects; a shared line means the same as its two lines in that order. The spacing is the model's choice
(notes/assumptions/7.md). -/
def Obligations.TraceLinesReadBack : Prop :=
  (∀ i : Instr, (parseLine (formatInstr i)).map TraceLine.events = some [instrEvent i]) ∧
  (∀ (op : BitVec 2) (mask e : Byte),
    parseLine (formatInstr (queryOfF op mask) ++ " -> ".toList ++ formatByte e) =
      some (.query op mask (some e))) ∧
  (∀ (op : BitVec 2) (mask raw : Byte),
    (parseLine (formatInstr (queryOfF op mask) ++ " ; ".toList ++ formatInstr (.tick raw))).map TraceLine.events =
      parseTrace [formatInstr (queryOfF op mask), formatInstr (.tick raw)]) ∧
  (parseLine "RESET".toList).map TraceLine.events = some [.reset] ∧
  (∀ raw : Byte, (parseLine ("TICK x3 ".toList ++ formatByte raw)).map TraceLine.events =
    parseTrace [formatInstr (.tick raw), formatInstr (.tick raw), formatInstr (.tick raw)])
end

