-- ==== Sys2Proof/Laws/Decode.lean ====
section
/-! SUPPORT. How words fall into their fields, so that a fact about all words is a fact about all fields. -/

namespace Sys2Proof.Laws

/-- An operation word is its fields K, F and D (30_encoding.md R71). -/
theorem opWord_eq_fields (w : OpWord) : fieldK w ++ fieldF w ++ fieldD w = w := by
  apply BitVec.eq_of_getLsbD_eq
  intro i hi
  simp only [fieldK, fieldF, fieldD, BitVec.getLsbD_append, BitVec.getLsbD_extractLsb']
  by_cases h8 : i < 8
  · simp [h8]
  · by_cases h10 : i - 8 < 2
    · have : 8 + (i - 8) = i := by omega
      simp [h8, h10, this]
    · have h : i = 10 := by omega
      subst h
      simp

/-- The fields of a word written as K : F : D (30_encoding.md R71). -/
theorem fields_of_append (k : BitVec 1) (f : BitVec 2) (d : Byte) :
    fieldK (k ++ f ++ d) = k ∧ fieldF (k ++ f ++ d) = f ∧ fieldD (k ++ f ++ d) = d := by
  refine ⟨?_, ?_, ?_⟩ <;> (revert k f; revert d; decide)

/-- A stored value is its five top bits and an operation word (30_encoding.md R75). -/
theorem storedWord_eq_fields (v : StoredWord) :
    (v.extractLsb' 11 5 : BitVec 5) ++ (v.extractLsb' 0 11 : OpWord) = v := by
  apply BitVec.eq_of_getLsbD_eq
  intro i hi
  simp only [BitVec.getLsbD_append, BitVec.getLsbD_extractLsb']
  by_cases h : i < 11
  · simp [h]
  · have : 11 + (i - 11) = i := by omega
    have h5 : i - 11 < 5 := by omega
    simp [h, h5, this]

/-- The two bytes of a stored value hold it (30_encoding.md R75). -/
theorem storedOfBytes_low_high (v : StoredWord) : storedOfBytes (storedLow v) (storedHigh v) = v := by
  apply BitVec.eq_of_getLsbD_eq
  intro i hi
  simp only [storedOfBytes, storedLow, storedHigh, BitVec.getLsbD_append, BitVec.getLsbD_extractLsb']
  by_cases h : i < 8
  · simp [h]
  · have : 8 + (i - 8) = i := by omega
    have h8 : i - 8 < 8 := by omega
    simp [h, h8, this]

/-- The bytes of a stored value made from two bytes are those bytes. -/
theorem low_high_storedOfBytes (lo hi : Byte) :
    storedLow (storedOfBytes lo hi) = lo ∧ storedHigh (storedOfBytes lo hi) = hi := by
  constructor
  · apply BitVec.eq_of_getLsbD_eq
    intro i h
    simp only [storedOfBytes, storedLow, BitVec.getLsbD_append, BitVec.getLsbD_extractLsb']
    simp [h]
  · apply BitVec.eq_of_getLsbD_eq
    intro i h
    simp only [storedOfBytes, storedHigh, BitVec.getLsbD_append, BitVec.getLsbD_extractLsb']
    simp [h]

/-- The parts of a stored value written as five top bits and an operation word (30_encoding.md R75). -/
theorem storedParts_of_append (a : BitVec 5) (w : OpWord) :
    (a ++ w).extractLsb' 11 5 = a ∧ (a ++ w).extractLsb' 0 11 = w := by
  constructor
  · apply BitVec.eq_of_getLsbD_eq
    intro i h
    simp only [BitVec.getLsbD_append, BitVec.getLsbD_extractLsb']
    simp [h]
  · apply BitVec.eq_of_getLsbD_eq
    intro i h
    simp only [BitVec.getLsbD_append, BitVec.getLsbD_extractLsb']
    simp [h]

/-- The number that two stored bytes hold, least significant byte first (30_encoding.md R75). -/
theorem storedOfBytes_toNat (lo hi : Byte) : (storedOfBytes lo hi).toNat = lo.toNat + 256 * hi.toNat := by
  have h : (hi ++ lo).toNat = hi.toNat * 2 ^ 8 + lo.toNat := by
    rw [BitVec.toNat_append, Nat.shiftLeft_eq, Nat.mul_comm, ← Nat.two_pow_add_eq_or_of_lt lo.isLt, Nat.mul_comm]
  simp only [storedOfBytes, h]
  omega

end Sys2Proof.Laws
end

