-- ==== Sys2Proof/Laws/State.lean ====
section
/-! SUPPORT. The small lemmas of the state's updates: one for each field of each update, true by rfl. -/

namespace Sys2Proof.Laws

open Sys2Proof.Machine

@[simp] theorem complete_regs (s : State) (r : Regs) (v : Option Byte) : (s.complete r v).regs = r := rfl
@[simp] theorem complete_cfg (s : State) (r : Regs) (v : Option Byte) : (s.complete r v).cfg = s.cfg := rfl
@[simp] theorem complete_pending (s : State) (r : Regs) (v : Option Byte) : (s.complete r v).pending = s.pending := rfl
@[simp] theorem complete_result (s : State) (r : Regs) (v : Option Byte) : (s.complete r v).result = v := rfl

@[simp] theorem idleCycle_regs (s : State) : s.idleCycle.regs = s.regs := rfl
@[simp] theorem idleCycle_cfg (s : State) : s.idleCycle.cfg = s.cfg := rfl
@[simp] theorem idleCycle_pending (s : State) : s.idleCycle.pending = s.pending := rfl
@[simp] theorem idleCycle_result (s : State) : s.idleCycle.result = none := rfl

@[simp] theorem performReset_regs (s : State) : s.performReset.regs = Regs.reset := rfl
@[simp] theorem performReset_cfg (s : State) : s.performReset.cfg = s.cfg := rfl
@[simp] theorem performReset_pending (s : State) : s.performReset.pending = s.pending := rfl
@[simp] theorem performReset_result (s : State) : s.performReset.result = none := rfl

@[simp] theorem resetWith_regs (c : Config) : (State.resetWith c).regs = Regs.reset := rfl
@[simp] theorem resetWith_cfg (c : Config) : (State.resetWith c).cfg = c := rfl
@[simp] theorem resetWith_pending (c : Config) : (State.resetWith c).pending = [] := rfl
@[simp] theorem resetWith_result (c : Config) : (State.resetWith c).result = none := rfl

@[simp] theorem withFetchWord_regs (s : State) (nbits w : Nat) : (s.withFetchWord nbits w).regs = s.regs := rfl
@[simp] theorem withFetchWord_cfg (s : State) (nbits w : Nat) : (s.withFetchWord nbits w).cfg = s.cfg := rfl
@[simp] theorem withFetchWord_result (s : State) (nbits w : Nat) : (s.withFetchWord nbits w).result = s.result := rfl

@[simp] theorem tickRegs_keyState (c : Config) (raw : Byte) (r : Regs) :
    (tickRegs c raw r).keyState = keyStateAfter c raw r := rfl
@[simp] theorem tickRegs_keyPress (c : Config) (raw : Byte) (r : Regs) :
    (tickRegs c raw r).keyPress = setFlags r.keyPress (pressEdges (keyStateAfter c raw r) (commit c raw r)) := rfl
@[simp] theorem tickRegs_keyRpt (c : Config) (raw : Byte) (r : Regs) :
    (tickRegs c raw r).keyRpt =
      setFlags r.keyRpt (repeatEvents c (keyStateAfter c raw r) (countdown c (keyStateAfter c raw r) r.rpt)) := rfl
@[simp] theorem tickRegs_ct0 (c : Config) (raw : Byte) (r : Regs) : (tickRegs c raw r).ct0 = ct0After c raw r := rfl
@[simp] theorem tickRegs_ct1 (c : Config) (raw : Byte) (r : Regs) : (tickRegs c raw r).ct1 = ct1After c raw r := rfl
@[simp] theorem tickRegs_rpt (c : Config) (raw : Byte) (r : Regs) :
    (tickRegs c raw r).rpt = rptAfter c (keyStateAfter c raw r) r.rpt := rfl

@[simp] theorem ticksRegs_nil (c : Config) (r : Regs) : ticksRegs c [] r = r := rfl
@[simp] theorem ticksRegs_cons (c : Config) (raw : Byte) (raws : List Byte) (r : Regs) :
    ticksRegs c (raw :: raws) r = ticksRegs c raws (tickRegs c raw r) := rfl

end Sys2Proof.Laws
end

