-- ==== Sys2Proof/Laws/Ops.lean ====
section
/-! SUPPORT. What each shared operation does, said once: the event flags, the two consuming primitives, and the four
bit-sliced steps of a tick, bit by bit. -/

namespace Sys2Proof.Laws

open Sys2Proof.Machine

/-- A query's primitive on `key_press` writes `key_press` alone, clears exactly what it reports, and reports the
selected flags. -/
theorem consumePress_spec (mask : Byte) (r r' : Regs) (v : Byte) (h : consumePress mask r = (r', v)) :
    v = r.keyPress &&& mask ∧ r' = { r with keyPress := r.keyPress &&& ~~~v } := by
  cases h
  exact ⟨rfl, rfl⟩

/-- A query's primitive on `key_rpt` writes `key_rpt` alone, clears exactly what it reports, and reports the selected
flags. -/
theorem consumeRepeat_spec (mask : Byte) (r r' : Regs) (v : Byte) (h : consumeRepeat mask r = (r', v)) :
    v = r.keyRpt &&& mask ∧ r' = { r with keyRpt := r.keyRpt &&& ~~~v } := by
  cases h
  exact ⟨rfl, rfl⟩

theorem setFlags_bit (flags bits : Byte) (i : Line) :
    (setFlags flags bits).getLsbD i = (flags.getLsbD i || bits.getLsbD i) := by
  simp [setFlags]

theorem clearFlags_bit (flags bits : Byte) (i : Line) :
    (clearFlags flags bits).getLsbD i = (flags.getLsbD i && !bits.getLsbD i) := by
  simp [clearFlags]

theorem selectFlags_bit (flags mask : Byte) (i : Line) :
    (selectFlags flags mask).getLsbD i = (flags.getLsbD i && mask.getLsbD i) := by
  simp [selectFlags]

/-- 42_query.md R121: clearing the reported bits is the same as toggling them. -/
theorem clear_reported_eq_xor (flags mask : Byte) :
    clearFlags flags (selectFlags flags mask) = flags ^^^ selectFlags flags mask := by
  apply BitVec.eq_of_getLsbD_eq
  intro i hi
  simp only [clearFlags, selectFlags, BitVec.getLsbD_and, BitVec.getLsbD_not, BitVec.getLsbD_xor, hi]
  cases flags.getLsbD i <;> cases mask.getLsbD i <;> rfl

/-- S1, bit by bit (40_tick_debounce.md R86). -/
theorem changed_bit (c : Config) (raw : Byte) (r : Regs) (i : Line) :
    (changed c raw r).getLsbD i = (r.keyState.getLsbD i ^^ (asserted c raw).getLsbD i) := by
  simp [changed]

/-- The polarity correction, bit by bit (40_tick_debounce.md R86). -/
theorem asserted_bit (c : Config) (raw : Byte) (i : Line) :
    (asserted c raw).getLsbD i = (raw.getLsbD i ^^ c.activeLow) := by
  cases h : c.activeLow <;> simp [asserted, h]

/-- S2, first formula, bit by bit (40_tick_debounce.md R88). -/
theorem ct0After_bit (c : Config) (raw : Byte) (r : Regs) (i : Line) :
    (ct0After c raw r).getLsbD i = !(r.ct0.getLsbD i && (changed c raw r).getLsbD i) := by
  simp [ct0After, nextCt0]

/-- S2, second formula, bit by bit, on the new `ct0'` (40_tick_debounce.md R88). -/
theorem ct1After_bit (c : Config) (raw : Byte) (r : Regs) (i : Line) :
    (ct1After c raw r).getLsbD i =
      ((ct0After c raw r).getLsbD i ^^ (r.ct1.getLsbD i && (changed c raw r).getLsbD i)) := by
  simp [ct1After, nextCt1]

/-- S3, bit by bit (40_tick_debounce.md R89): a line commits when it disagrees and its counter stood at 0. -/
theorem commit_bit (c : Config) (raw : Byte) (r : Regs) (i : Line) :
    (commit c raw r).getLsbD i =
      ((changed c raw r).getLsbD i && !r.ct0.getLsbD i && !r.ct1.getLsbD i) := by
  simp only [commit, BitVec.getLsbD_and, ct1After_bit, ct0After_bit]
  cases (changed c raw r).getLsbD i <;> cases r.ct0.getLsbD i <;> cases r.ct1.getLsbD i <;> rfl

/-- S4, bit by bit (40_tick_debounce.md R90). -/
theorem keyStateAfter_bit (c : Config) (raw : Byte) (r : Regs) (i : Line) :
    (keyStateAfter c raw r).getLsbD i = (r.keyState.getLsbD i ^^ (commit c raw r).getLsbD i) := by
  simp [keyStateAfter]

/-- S6, the countdown as a number: the value before the decrement, less one modulo 256 (41_tick_press_repeat.md R106,
R109). -/
theorem countdown_toNat (c : Config) (ks rpt : Byte) :
    (countdown c ks rpt).toNat = ((countdownStart c ks rpt).toNat + 255) % 256 := by
  simp [countdown, BitVec.toNat_sub, Nat.add_comm]

end Sys2Proof.Laws
end

