-- ==== Sys2Proof/Laws/PerInstr.lean ====
section
/-! SUPPORT. Statements made once for each constructor of Instr: the word of an operation fits its row of the opcode
table. -/

namespace Sys2Proof.Laws

/-- The operation's word lies in its row of 30_encoding.md R72 (`(w & 0x700) == match`), carries the operand in D, and
is legal. -/
def EncodingFitsRow.Statement (i : Instr) : Prop :=
  encodeWord i &&& 0x700 = i.rowMatch ∧ fieldD (encodeWord i) = i.operand ∧ OpWord.legal (encodeWord i) = true

theorem EncodingFitsRow.getPress (mask : Byte) : EncodingFitsRow.Statement (.getPress mask) := by
  unfold Statement; revert mask; decide
theorem EncodingFitsRow.getRpt (mask : Byte) : EncodingFitsRow.Statement (.getRpt mask) := by
  unfold Statement; revert mask; decide
theorem EncodingFitsRow.getShort (mask : Byte) : EncodingFitsRow.Statement (.getShort mask) := by
  unfold Statement; revert mask; decide
theorem EncodingFitsRow.getLong (mask : Byte) : EncodingFitsRow.Statement (.getLong mask) := by
  unfold Statement; revert mask; decide
theorem EncodingFitsRow.tick (raw : Byte) : EncodingFitsRow.Statement (.tick raw) := by
  unfold Statement; revert raw; decide

end Sys2Proof.Laws
end

