-- ==== Sys2Proof/Laws/Step.lean ====
section
/-! SUPPORT. What one step can do, said once: if it answers next, one of three cases holds; and what a decoded word
is. -/

namespace Sys2Proof.Laws

open Sys2Proof.Machine

/-- Decoding two bytes is decoding the stored value they hold. -/
theorem fetchInstr_eq (lo hi : Byte) : fetchInstr lo hi = decodeStored (storedOfBytes lo hi) := by
  simp only [fetchInstr, decodeBytes]
  cases decodeStored (storedOfBytes lo hi) <;> rfl

theorem step_of_empty (s : State) (h : s.pending = []) : step s = .next s.idleCycle := by
  simp [step, h]

theorem step_of_reset (s : State) (rest : List Event) (h : s.pending = .reset :: rest) :
    step s = .next { s with pending := rest }.performReset := by
  simp [step, h]

theorem step_of_word (s : State) (lo hi : Byte) (rest : List Event) (i : Instr)
    (h : s.pending = .word lo hi :: rest) (hi' : fetchInstr lo hi = some i) :
    step s = exec i { s with pending := rest } := by
  simp [step, h, hi']

theorem step_of_reserved (s : State) (lo hi : Byte) (rest : List Event)
    (h : s.pending = .word lo hi :: rest) (hi' : fetchInstr lo hi = none) :
    step s = .refused (.reservedOperationWord (storedOfBytes lo hi)) := by
  simp [step, h, hi']

/-- A step that answers next performed an idle cycle, a `RESET`, or the operation of the oldest word. -/
theorem step_next_cases (s t : State) (h : step s = .next t) :
    (s.pending = [] ∧ t = s.idleCycle) ∨
    (∃ rest, s.pending = .reset :: rest ∧ t = { s with pending := rest }.performReset) ∨
    (∃ lo hi rest i, s.pending = .word lo hi :: rest ∧ fetchInstr lo hi = some i ∧
      exec i { s with pending := rest } = .next t) := by
  cases hp : s.pending with
  | nil => rw [step_of_empty s hp] at h; cases h; exact .inl ⟨rfl, rfl⟩
  | cons e rest =>
    cases e with
    | reset => rw [step_of_reset s rest hp] at h; cases h; exact .inr (.inl ⟨rest, rfl, rfl⟩)
    | word lo hi =>
      cases hf : fetchInstr lo hi with
      | none => rw [step_of_reserved s lo hi rest hp hf] at h; cases h
      | some i =>
        rw [step_of_word s lo hi rest i hp hf] at h
        exact .inr (.inr ⟨lo, hi, rest, i, rfl, hf, h⟩)

end Sys2Proof.Laws
end

