-- ==== Sys2Proof/Laws/Trace.lean ====
section
/-! SUPPORT. What reading a binary operand and a single tick of a trace line can do (30_encoding.md R78). -/

namespace Sys2Proof.Laws

open Sys2Proof.Machine

/-- Where the underscores of a binary operand are accepted, its digits are the characters that are no underscore. -/
theorem dropUnderscores_some (b : Bool) (cs ds : List Char) (h : dropUnderscores b cs = some ds) :
    ds = cs.filter (· != '_') := by
  induction cs generalizing b ds with
  | nil => cases b <;> simp_all [dropUnderscores]
  | cons ch rest ih =>
    rw [dropUnderscores] at h
    by_cases hu : ch = '_'
    · cases b <;> simp [hu] at h
      simpa [hu] using ih false ds h
    · simp only [hu, if_false, Option.map_eq_some_iff] at h
      obtain ⟨ds', hd, rfl⟩ := h
      simp [hu, ← ih true ds' hd]

/-- A single tick is the two tokens `TICK` and its operand. -/
theorem parseSingleTick_some (ts : List (List Char)) (raw : Byte) (h : parseSingleTick ts = some raw) :
    ∃ a, ts = ["TICK".toList, a] ∧ parseByte a = some raw := by
  unfold parseSingleTick at h
  split at h
  · split at h
    next a hop => exact ⟨_, by rw [hop], h⟩
    next => cases h
  · cases h

end Sys2Proof.Laws
end

