-- ==== Sys2Proof/Tests/Slice0.lean ====
section
/-! SUPPORT. The model's own tests. Expected values are those of 95_test_vectors.md, named by vector, or of the worked
example of the rule a comment names. After them, for each statement with hypotheses, the inputs that meet them. -/

namespace Sys2Proof.Tests

open Sys2Proof.Machine

/-! ## Helpers -/

/-- The parameters of a vector, active low. -/
def cfg (mask start next : Byte) : Config :=
  { repeatMask := mask, repeatStart := start, repeatNext := next, activeLow := true }

/-- The registers in the column order of the vectors' tables. -/
def rg (ks kp kr ct0 ct1 rpt : Byte) : Regs :=
  { keyState := ks, keyPress := kp, keyRpt := kr, ct0 := ct0, ct1 := ct1, rpt := rpt }

/-- A state with nothing pending. -/
def st (c : Config) (r : Regs) : State := { regs := r, cfg := c, pending := [], result := none }

/-- The registers and the result of a next state. -/
def after : Host.Outcome State Fault Refusal → Option (Regs × Option Byte)
  | .next t => some (t.regs, t.result)
  | .fault _ => none
  | .refused _ => none

/-! ## Well-formedness: the ill-formed terms each check refuses (95_test_vectors.md V22) -/

theorem test_reserved_words_ill_formed :
    OpWord.legal 0x500 = false ∧ OpWord.legal 0x6FE = false ∧ OpWord.legal 0x7FF = false := by decide
theorem test_words_well_formed : OpWord.legal 0x3FF = true ∧ OpWord.legal 0x4FF = true := by decide
theorem test_stored_above_eleven_bits_ill_formed :
    StoredWord.legal 0x0800 = false ∧ StoredWord.legal 0x84FE = false := by decide
theorem test_stored_reserved_ill_formed : StoredWord.legal 0x0500 = false ∧ StoredWord.legal 0x07FF = false := by
  decide
theorem test_instr_well_formed : Instr.wellFormed (.tick 0xFE) = true := by decide

/-! ## Decoding: words written out bit by bit (30_encoding.md R72, 95_test_vectors.md V22) -/

theorem test_decode_get_press : decodeWord 0b00011111111 = some (.getPress 0xFF) := by decide
theorem test_decode_get_rpt : decodeWord 0b00100000110 = some (.getRpt 0x06) := by decide
theorem test_decode_get_short : decodeWord 0b01010100101 = some (.getShort 0xA5) := by decide
theorem test_decode_get_long : decodeWord 0b01100000110 = some (.getLong 0x06) := by decide
theorem test_decode_tick : decodeWord 0b10011111110 = some (.tick 0xFE) := by decide
theorem test_decode_refuses_reserved :
    decodeWord 0b10100000000 = none ∧ decodeWord 0b11011111110 = none ∧ decodeWord 0b11111111111 = none := by decide
theorem test_decode_bytes_little_endian :
    decodeBytes [0x06, 0x03, 0xAB] = .op (.getLong 0x06) [0xAB] ∧
    decodeBytes [0xFE, 0x04] = .op (.tick 0xFE) [] := by decide
theorem test_decode_bytes_refuses :
    decodeBytes [0x00, 0x08] = .refused (.reservedOperationWord 0x0800) ∧
    decodeBytes [0xFE, 0x06] = .refused (.reservedOperationWord 0x06FE) ∧
    decodeBytes [0xFE] = .refused .incompleteWord := by decide
theorem test_encode_stored_bytes :
    encode (.getPress 0x01) = [0x01, 0x00] ∧ encode (.getRpt 0x06) = [0x06, 0x01] ∧
    encode (.getShort 0x01) = [0x01, 0x02] ∧ encode (.getLong 0x00) = [0x00, 0x03] ∧
    encode (.tick 0xFF) = [0xFF, 0x04] := by decide
theorem test_decode_table_word :
    decodeTableWord 16 0x4FE = some (.tick 0xFE) ∧ decodeTableWord 11 0x206 = some (.getShort 0x06) ∧
    decodeTableWord 16 0x500 = none := by decide

/-! ## One step of each operation -/

/-- 40_tick_debounce.md R85, worked example; the event placed by `withFetchWord`. -/
theorem test_tick_first_disagreement :
    after (step ((st (cfg 0x01 50 20) (rg 0x00 0x00 0x00 0xFF 0xFF 0x31)).withFetchWord 16 0x4FE)) =
      some (rg 0x00 0x00 0x00 0xFE 0xFF 0x31, none) := by decide
/-- 95_test_vectors.md V8 tick 3: eight lanes, one commits, the others count. -/
theorem test_tick_lanes :
    after (exec (.tick 0x78) (st (cfg 0x00 50 20) (rg 0x00 0x00 0x00 0xFA 0xFC 0x31))) =
      some (rg 0x01 0x01 0x00 0x7D 0xF9 0x31, none) := by decide
/-- 95_test_vectors.md V13 tick 17: a firing at the tick that commits another line's release. -/
theorem test_tick_fires_at_release_of_other_line :
    after (exec (.tick 0xFE) (st (cfg 0x03 8 4) (rg 0x03 0x03 0x00 0xFD 0xFD 0x01))) =
      some (rg 0x01 0x03 0x01 0xFF 0xFF 0x04, none) := by decide
/-- 95_test_vectors.md V19 tick 3: active high. -/
theorem test_tick_active_high :
    after (exec (.tick 0x01) (st { cfg 0x00 50 20 with activeLow := false } (rg 0x00 0x00 0x00 0xFE 0xFE 0x31))) =
      some (rg 0x01 0x01 0x00 0xFF 0xFF 0x31, none) := by decide
/-- 95_test_vectors.md V2 row 1: the first tick after reset commits and the countdown wraps. -/
theorem test_first_tick_after_reset :
    after (exec (.tick 0xFE) (State.resetWith (cfg 0x01 50 20))) =
      some (rg 0x01 0x01 0x00 0xFF 0xFF 0xFF, none) := by decide
/-- 95_test_vectors.md V14 row 0. -/
theorem test_get_press :
    after (exec (.getPress 0x03) (st (cfg 0x00 50 20) (rg 0x04 0x05 0x00 0xFF 0xFF 0x20))) =
      some (rg 0x04 0x04 0x00 0xFF 0xFF 0x20, some 0x01) := by decide
/-- 95_test_vectors.md V15 row 0. -/
theorem test_get_rpt :
    after (exec (.getRpt 0x02) (st (cfg 0x06 50 20) (rg 0x06 0x00 0x06 0xFF 0xFF 0x10))) =
      some (rg 0x06 0x00 0x04 0xFF 0xFF 0x10, some 0x02) := by decide
/-- 95_test_vectors.md V16 row 0: the press of a line still held is withheld. -/
theorem test_get_short :
    after (exec (.getShort 0x03) (st (cfg 0x00 50 20) (rg 0x01 0x03 0x00 0xFF 0xFF 0x20))) =
      some (rg 0x01 0x01 0x00 0xFF 0xFF 0x20, some 0x02) := by decide
/-- 95_test_vectors.md V17, first table: a repeat event without a press event is cleared unreported. -/
theorem test_get_long_eats_repeats :
    after (exec (.getLong 0x06) (st (cfg 0x06 50 20) (rg 0x06 0x02 0x06 0xFF 0xFF 0x10))) =
      some (rg 0x06 0x00 0x00 0xFF 0xFF 0x10, some 0x02) := by decide
/-- 95_test_vectors.md V17, second table, row 0. -/
theorem test_get_long_masked :
    after (exec (.getLong 0x03) (st (cfg 0x06 50 20) (rg 0x07 0x03 0x06 0xFF 0xFF 0x10))) =
      some (rg 0x07 0x01 0x04 0xFF 0xFF 0x10, some 0x02) := by decide
/-- 70_reset_and_hazards.md R160: `RESET` discards pending events and keeps the parameters. -/
theorem test_reset_event :
    after (step { st (cfg 0x06 50 20) (rg 0x07 0x03 0x06 0xFF 0xFF 0x10) with pending := [.reset] }) =
      some (rg 0 0 0 0 0 0, none) := by decide
/-- 60_exceptions.md R142: a reserved word is refused by name. -/
theorem test_reserved_word_refused (s : State) :
    step { s with pending := [.word 0x00 0x05] } = .refused (.reservedOperationWord 0x0500) := rfl
/-- 95_test_vectors.md V18: the shared cycle through the ports, registers and `q_result`. -/
theorem test_port_query_and_tick :
    let p : PortInputs := { rst := false, tick := true, raw := 0xFE, qValid := true, qOp := 0b00, qMask := 0x01 }
    clockEdge (cfg 0x00 50 20) p (rg 0x00 0x01 0x00 0xFE 0xFE 0x31) = rg 0x01 0x01 0x00 0xFF 0xFF 0x31 ∧
    p.qResult (rg 0x00 0x01 0x00 0xFE 0xFE 0x31) = some 0x01 ∧
    p.events = [.word 0x01 0x00, .word 0xFE 0x04] := by decide
/-- 30_encoding.md R78: trace lines, with decimal and binary operands, an expected result, a comment, a repetition. -/
theorem test_parse_lines :
    parseLine "GET_SHORT 0x01 -> 0x01 # once".toList = some (.query 0b10 0x01 (some 0x01)) ∧
    parseLine "GET_LONG 6".toList = some (.query 0b11 0x06 none) ∧
    parseLine "TICK 0b1111_1110".toList = some (.ticks 1 0xFE) ∧
    parseLine "TICK x3 0xFF".toList = some (.ticks 3 0xFF) := by decide
/-- 30_encoding.md R78: a shared line, and texts that spell no line. -/
theorem test_parse_shared_line :
    parseLine "GET_PRESS 0x05 ; TICK 0xFA".toList = some (.shared 0b00 0x05 0xFA none) ∧
    parseLine "TICK 0x100".toList = none ∧ parseLine "GET_FOO 0x01".toList = none := by decide

/-- The model's choices of notes/assumptions/7.md: an underscore stands alone between two digits, and a shared line
takes no repetition. -/
theorem test_parse_refused_spellings :
    parseLine "TICK 0b_1".toList = none ∧ parseLine "TICK 0b1_".toList = none ∧
    parseLine "TICK 0b1__0".toList = none ∧ parseLine "TICK 0b".toList = none ∧
    parseLine "GET_PRESS 0x05 ; TICK x1 0xFA".toList = none ∧
    parseLine "GET_PRESS 0x05 ; TICK x2 0xFA".toList = none := by decide

/-! ## Witnesses: inputs that meet the hypotheses of each statement, clause by clause -/

/-- An idle state of the reference configuration with line 0 eligible (95_test_vectors.md, IDLE). -/
def idle : State := st (cfg 0x01 50 20) (rg 0x00 0x00 0x00 0xFF 0xFF 0x31)

/-- A state with events pending on lines 1 and 2, line 0 pressed. -/
def busy : State := st (cfg 0x06 50 20) (rg 0x07 0x03 0x06 0xFF 0xFF 0x10)

theorem witness_StoredWordsRoundTrip :
    (Instr.getLong 0xFF).wellFormed = true ∧ decodeBytes [0xFF, 0x03, 0x00] = .op (.getLong 0xFF) [0x00] := by decide
theorem witness_OperationSelectedByRowMatch :
    decodeWord 0x4FF = some (.tick 0xFF) ∧
    (0x4FF : OpWord) &&& 0x700 = (Instr.tick 0xFF).rowMatch ∧
    (0x4FF : OpWord).extractLsb' 0 8 = (Instr.tick 0xFF).operand := by decide
/-- The boundary of the reserved stored values, 0x04FF and 0x0500, and the three kinds of cycle. -/
theorem witness_ReservedWordsRefusedByName :
    decodeStored 0x0500 = none ∧ decodeStored 0x04FF = some (.tick 0xFF) ∧ decodeStored 0xFFFF = none ∧
    (0x500 ≤ (0x00 : Byte).toNat + 256 * (0x05 : Byte).toNat) ∧
    ¬ (0x500 ≤ (0xFF : Byte).toNat + 256 * (0x04 : Byte).toNat) ∧
    .reset ∈ ({ rst := true, tick := false, raw := 0, qValid := false, qOp := 0, qMask := 0 } : PortInputs).events ∧
    .word 0xFF 0x03 ∈
      ({ rst := false, tick := false, raw := 0, qValid := true, qOp := 3, qMask := 0xFF } : PortInputs).events ∧
    .word 0xFF 0x04 ∈
      ({ rst := false, tick := true, raw := 0xFF, qValid := false, qOp := 0, qMask := 0 } : PortInputs).events := by
  decide
theorem witness_ReservedWordsRefusedByName_step :
    step { idle with pending := [.word 0x00 0x05] } = .refused (.reservedOperationWord (storedOfBytes 0x00 0x05)) := rfl
theorem witness_StoredFormLittleEndian : 8 ≤ (0x08 : Byte).toNat ∧ 8 ≤ (0xFF : Byte).toNat := by decide
theorem witness_StepRunsDecodedInstruction :
    ({ idle with pending := [.word 0xFE 0x04, .reset] } : State).pending = .word 0xFE 0x04 :: [.reset] ∧
    decodeBytes [0xFE, 0x04] = .op (.tick 0xFE) [] ∧ (Instr.tick 0xFE).wellFormed = true ∧
    decodeTableWord 16 0x3FF = some (.getLong 0xFF) := by decide
theorem witness_IdleCycleHolds : idle.pending = [] ∧ busy.pending = [] := by decide
theorem witness_NoOperationFaults :
    ({ busy with pending := [.reset] } : State).pending = .reset :: [] ∧
    (∀ e ∈ ({ busy with pending := [.word 0xFF 0x04] } : State).pending.head?, e.legal = true) ∧
    (∀ e ∈ busy.pending.head?, e.legal = true) := by decide
/-- A step of each kind answers a next state: the idle cycle, `RESET`, a query and a tick. -/
theorem witness_StepKeepsParameters :
    step busy = .next { busy with result := none } ∧
    step { busy with pending := [.reset] } = .next { busy with regs := Regs.reset } ∧
    (∃ t, step { busy with pending := [.word 0x03 0x00] } = .next t) ∧
    (∃ t, step { busy with pending := [.word 0xFF 0x04] } = .next t) := ⟨rfl, rfl, ⟨_, rfl⟩, ⟨_, rfl⟩⟩
theorem witness_ResetLeavesEveryRegisterZero :
    ({ busy with pending := [.reset, .reset] } : State).pending = .reset :: [.reset] := rfl
theorem witness_FirstTickAfterResetCommits :
    (State.resetWith (cfg 0x01 50 20)).regs = Regs.reset ∧ lineAsserted (cfg 0x01 50 20) 0xFE 0 = true ∧
    lineAsserted (cfg 0x01 50 20) 0xFE 7 = false := by decide
theorem witness_FirstRepeatAfterHeldReset :
    eligiblePressed (cfg 0x01 50 20) (tickRegs (cfg 0x01 50 20) 0xFE Regs.reset) = true ∧
    heldThroughout (cfg 0x01 50 20) [0xFE, 0xFE, 0xFF] Regs.reset = true ∧
    eligiblePressed (cfg 0x01 50 20) (tickRegs (cfg 0x01 50 20) 0xFF Regs.reset) = false ∧
    eligiblePressed (cfg 0x01 1 20) (tickRegs (cfg 0x01 1 20) 0xFF Regs.reset) = false := by decide
/-- A held sequence long enough to reach the firing at tick index 255 (95_test_vectors.md V23). -/
theorem witness_FirstRepeatAfterHeldReset_long :
    heldThroughout (cfg 0x01 50 20) (List.replicate 256 0xFE) Regs.reset = true := by decide +kernel
/-- One line of one state for each row of the transition table of 40_tick_debounce.md R92: line 0 agrees, lines 1 to 4
disagree at V = 3, 2, 1, 0. -/
theorem witness_CounterFollowsTransitionTable :
    let r := rg 0x00 0x00 0x00 0x0B 0x07 0x31
    lineAsserted (cfg 0x01 50 20) 0xE1 0 = r.keyState.getLsbD 0 ∧
    (lineAsserted (cfg 0x01 50 20) 0xE1 1 ≠ r.keyState.getLsbD 1 ∧ counterV r 1 = 3) ∧
    (lineAsserted (cfg 0x01 50 20) 0xE1 2 ≠ r.keyState.getLsbD 2 ∧ counterV r 2 = 2) ∧
    (lineAsserted (cfg 0x01 50 20) 0xE1 3 ≠ r.keyState.getLsbD 3 ∧ counterV r 3 = 1) ∧
    (lineAsserted (cfg 0x01 50 20) 0xE1 4 ≠ r.keyState.getLsbD 4 ∧ counterV r 4 = 0) := by decide
/-- Four disagreeing samples (95_test_vectors.md V1), and a return after one, two and three (V4, V5). -/
theorem witness_ConfirmWindowIsFourSamples :
    let c := cfg 0x01 50 20
    let r := idle.regs
    counterV r 0 = 3 ∧ lineAsserted c 0xFE 0 = !r.keyState.getLsbD 0 ∧
    (∀ x ∈ ([0xFE, 0xFF] : List Byte).getLast?, lineAsserted c x 0 = r.keyState.getLsbD 0) ∧
    (∀ x ∈ ([0xFE, 0xFE, 0xFF] : List Byte).getLast?, lineAsserted c x 0 = r.keyState.getLsbD 0) ∧
    (∀ x ∈ ([0xFE, 0xFE, 0xFE, 0xFF] : List Byte).getLast?, lineAsserted c x 0 = r.keyState.getLsbD 0) := by decide
/-- Line 0 commits at the first of four ticks; the last of them is three ticks later. -/
theorem witness_OneToggleInFourTicks :
    let c := cfg 0x01 50 20
    let r := rg 0x00 0x00 0x00 0xFE 0xFE 0x31
    let raws : List Byte := [0xFE, 0xFF, 0xFF, 0xFF]
    raws.length ≤ 4 ∧ 0 < 3 ∧ 3 < raws.length ∧
    (ticksRegs c (raws.take 1) r).keyState.getLsbD 0 ≠ (ticksRegs c (raws.take 0) r).keyState.getLsbD 0 := by decide
theorem witness_CommittedLinesTakeAssertedLevel :
    (commit (cfg 0x01 50 20) 0xFE (rg 0x00 0x00 0x00 0xFE 0xFE 0x31)).getLsbD (0 : Line) = true ∧
    (commit (cfg 0x01 50 20) 0xFE (rg 0x00 0x00 0x00 0xFE 0xFE 0x31)).getLsbD (7 : Line) = false := by decide
theorem witness_ReleasedTickOnlyIdlesCounters : idle.regs.keyState = 0 := by decide
/-- The countdown at its boundaries: it starts at 0 and wraps, and it starts at 1 and fires. -/
theorem witness_CountdownReloadsAndDecrements :
    (tickRegs (cfg 0x01 50 20) 0xFE (rg 0x01 0x00 0x00 0xFF 0xFF 0x00)).rpt = 0xFF ∧
    (tickRegs (cfg 0x01 50 20) 0xFE (rg 0x01 0x00 0x00 0xFF 0xFF 0x01)).rpt = 20 ∧
    fires (cfg 0x01 50 20) 0xFE (rg 0x01 0x00 0x00 0xFF 0xFF 0x01) = true := by decide
theorem witness_RestingCountdownIsStartMinusOne :
    2 ≤ (cfg 0x01 2 20).repeatStart.toNat ∧
    eligiblePressed (cfg 0x01 2 20) (tickRegs (cfg 0x01 2 20) 0xFF idle.regs) = false ∧
    2 ≤ (cfg 0x01 255 20).repeatStart.toNat ∧
    eligiblePressed (cfg 0x01 255 20) (tickRegs (cfg 0x01 255 20) 0xFF idle.regs) = false := by decide
theorem witness_HeldTimerFiringTicks :
    heldThroughout (cfg 0x01 5 3) [0xFE, 0xFE, 0xFE, 0xFE] (rg 0x01 0x01 0x00 0xFF 0xFF 0x01) = true ∧
    firesAt (cfg 0x01 5 3) [0xFE, 0xFE, 0xFE, 0xFE] 0 (rg 0x01 0x01 0x00 0xFF 0xFF 0x01) = true ∧
    firesAt (cfg 0x01 5 3) [0xFE, 0xFE, 0xFE, 0xFE] 3 (rg 0x01 0x01 0x00 0xFF 0xFF 0x01) = true := by decide
/-- 95_test_vectors.md V10 from its tick 2 on: tick L is tick 2, the press commits at tick 3. -/
theorem witness_RepeatFiresAfterStartThenEveryNext :
    let c := cfg 0x01 5 3
    let r := rg 0x00 0x00 0x00 0xFF 0xFE 0x04
    2 ≤ c.repeatStart.toNat ∧ 1 ≤ c.repeatNext.toNat ∧ eligiblePressed c (tickRegs c 0xFE r) = false ∧
    heldThroughout c (List.replicate 7 0xFE) (tickRegs c 0xFE r) = true ∧
    firesAt c (List.replicate 7 0xFE) 3 (tickRegs c 0xFE r) = true ∧
    firesAt c (List.replicate 7 0xFE) 6 (tickRegs c 0xFE r) = true := by decide
/-- Cases (a), (b) and (e): a tick L with no eligible line pressed, then the press committed and held. -/
theorem witness_ParameterCornerCases_start :
    ∀ start : Byte, start = 1 ∨ start = 0 ∨ start = 2 →
      eligiblePressed (cfg 0x01 start 3) (tickRegs (cfg 0x01 start 3) 0xFE (rg 0x00 0x00 0x00 0xFF 0xFE 0x04)) =
        false ∧
      heldThroughout (cfg 0x01 start 3) [0xFE, 0xFE, 0xFE, 0xFE]
        (tickRegs (cfg 0x01 start 3) 0xFE (rg 0x00 0x00 0x00 0xFF 0xFE 0x04)) = true := by
  intro start h
  rcases h with rfl | rfl | rfl <;> decide
/-- Cases (c) and (d): a firing, then the line held. -/
theorem witness_ParameterCornerCases_next :
    ∀ next : Byte, next = 0 ∨ next = 1 →
      fires (cfg 0x01 5 next) 0xFE (rg 0x01 0x00 0x00 0xFF 0xFF 0x01) = true ∧
      heldThroughout (cfg 0x01 5 next) [0xFE, 0xFE]
        (tickRegs (cfg 0x01 5 next) 0xFE (rg 0x01 0x00 0x00 0xFF 0xFF 0x01)) = true := by
  intro next h
  rcases h with rfl | rfl <;> decide
/-- Case (f). -/
theorem witness_ParameterCornerCases_mask :
    (st (cfg 0x00 50 20) (rg 0xFF 0xFF 0x00 0xFF 0xFF 0x31)).cfg.repeatMask = 0 ∧
    RepeatsEligible (st (cfg 0x00 50 20) (rg 0xFF 0xFF 0x00 0xFF 0xFF 0x31)) := by decide
theorem witness_LongPressBoundary :
    let c := cfg 0x01 3 20
    let r := rg 0x00 0x00 0x00 0xFF 0xFE 0x04
    2 ≤ c.repeatStart.toNat ∧ c.repeatMask.getLsbD (0 : Line) = true ∧
    eligiblePressed c (tickRegs c 0xFE r) = false ∧ (tickRegs c 0xFE r).keyRpt.getLsbD (0 : Line) = false ∧
    lineHeldThroughout c 0 [0xFE, 0xFE, 0xFF] (tickRegs c 0xFE r) = true := by decide
/-- Line 1 joins and line 0 is released while the countdown runs on (95_test_vectors.md V13, ticks 5 to 7). -/
theorem witness_SharedCountdownRunsOnWhileHeld :
    let r := rg 0x01 0x01 0x00 0xFF 0xFF 0x05
    heldThroughout (cfg 0x03 8 4) [0xFC, 0xFC, 0xFC] r = true ∧
    firesAt (cfg 0x03 8 4) [0xFC, 0xFC, 0xFC] 0 r = false ∧ firesAt (cfg 0x03 8 4) [0xFC, 0xFC, 0xFC] 1 r = false ∧
    firesAt (cfg 0x03 8 4) [0xFC, 0xFC, 0xFC] 2 r = false := by decide
theorem witness_StepKeepsReachableInvariant :
    ReachableInv busy ∧ (∃ t, step { busy with pending := [.word 0x06 0x03] } = .next t) ∧
    ReachableInv (State.resetWith (cfg 0x01 50 20)) := ⟨by decide, ⟨_, rfl⟩, by decide⟩
theorem witness_AfterTickAgreedOrCommittedIsIdle :
    (changed (cfg 0x01 50 20) 0xFE idle.regs).getLsbD (7 : Line) = false ∧
    (commit (cfg 0x01 50 20) 0xFE (rg 0x00 0x00 0x00 0xFE 0xFE 0x31)).getLsbD (0 : Line) = true ∧
    (tickRegs (cfg 0x01 50 0) 0xFE (rg 0x01 0x00 0x00 0xFF 0xFF 0x01)).rpt = 0 := by decide
/-- A tick sets bit 0 of both event vectors and of `key_state`. -/
theorem witness_TicksSetAndQueriesClear_set :
    after (step { st (cfg 0x01 2 20) (rg 0x00 0x00 0x00 0xFE 0xFE 0x01) with pending := [.word 0xFE 0x04] }) =
      some (rg 0x01 0x01 0x01 0xFF 0xFF 0x14, none) := by decide
/-- `RESET` clears a bit of each, and a query clears bit 1 of both event vectors. -/
theorem witness_TicksSetAndQueriesClear_clear :
    after (step { busy with pending := [.reset] }) = some (rg 0 0 0 0 0 0, none) ∧
    after (step { busy with pending := [.word 0x02 0x03] }) = some (rg 0x07 0x01 0x04 0xFF 0xFF 0x10, some 0x02) := by
  decide
/-- A press reported and cleared, a repeat reported and cleared, and a repeat cleared by `GET_LONG` unreported. -/
theorem witness_NoEventIsLost :
    ({ busy with pending := [.word 0x04 0x03] } : State).resetIsNext = false ∧
    after (step { busy with pending := [.word 0x01 0x00] }) = some (rg 0x07 0x02 0x06 0xFF 0xFF 0x10, some 0x01) ∧
    after (step { busy with pending := [.word 0x02 0x01] }) = some (rg 0x07 0x03 0x04 0xFF 0xFF 0x10, some 0x02) ∧
    after (step { busy with pending := [.word 0x04 0x03] }) = some (rg 0x07 0x03 0x02 0xFF 0xFF 0x10, some 0x00) := by
  decide
theorem witness_GetPressReportsAndClears :
    after (exec (.getPress 0x81) (st (cfg 0x00 50 20) (rg 0x00 0x80 0x00 0xFF 0xFF 0x31))) =
      some (rg 0x00 0x00 0x00 0xFF 0xFF 0x31, some 0x80) := by decide
theorem witness_GetRptReportsAndClears :
    after (exec (.getRpt 0xFF) busy) = some (rg 0x07 0x03 0x00 0xFF 0xFF 0x10, some 0x06) ∧
    RepeatsEligible busy ∧ busy.cfg.repeatMask.getLsbD (0 : Line) = false := by decide
/-- Line 0 is pressed and keeps its press event; line 1 of the second state is released and reported. -/
theorem witness_GetShortReportsReleasedPresses :
    busy.regs.keyState.getLsbD (0 : Line) = true ∧
    after (exec (.getShort 0xFF) busy) = some (rg 0x07 0x03 0x06 0xFF 0xFF 0x10, some 0x00) ∧
    after (exec (.getShort 0xFF) (st (cfg 0x00 50 20) (rg 0x01 0x03 0x00 0xFF 0xFF 0x20))) =
      some (rg 0x01 0x01 0x00 0xFF 0xFF 0x20, some 0x02) := by decide
theorem witness_GetLongReportsRepeatedPresses :
    after (exec (.getLong 0xFF) busy) = some (rg 0x07 0x01 0x00 0xFF 0xFF 0x10, some 0x02) ∧
    RepeatsEligible busy ∧ busy.cfg.repeatMask.getLsbD (0 : Line) = false := by decide
theorem witness_QueriesAreTotal :
    isQuery (.getLong 0x00) = true ∧ (Instr.getLong 0x00).operand = 0x00 ∧ isQuery (.getPress 0xFF) = true := by decide
/-- The same query around two others, its first result not zero. -/
theorem witness_SameQueryTwiceReturnsZero :
    isQuery (.getLong 0x06) = true ∧ (∀ p ∈ [Instr.getPress 0x01, Instr.getShort 0xFF], isQuery p = true) ∧
    (after (exec (.getLong 0x06) busy)).map Prod.snd = some (some 0x02) := by decide
/-- `GET_LONG` and then `GET_PRESS` on line 1; `GET_LONG` and then `GET_RPT` on line 2, which `GET_LONG` does not
report. -/
theorem witness_ResultsAreSharedSubsets :
    isQuery (.getLong 0x06) = true ∧ consumesPress (.getLong 0x06) = true ∧ consumesRepeat (.getLong 0x06) = true ∧
    consumesPress (.getPress 0xFF) = true ∧ consumesRepeat (.getRpt 0xFF) = true ∧
    after (exec (.getLong 0x06) busy) = some (rg 0x07 0x01 0x00 0xFF 0xFF 0x10, some 0x02) ∧
    after (exec (.getPress 0xFF) (st busy.cfg (rg 0x07 0x01 0x00 0xFF 0xFF 0x10))) =
      some (rg 0x07 0x00 0x00 0xFF 0xFF 0x10, some 0x01) ∧
    after (exec (.getRpt 0xFF) (st busy.cfg (rg 0x07 0x01 0x00 0xFF 0xFF 0x10))) =
      some (rg 0x07 0x01 0x00 0xFF 0xFF 0x10, some 0x00) ∧
    (0x02 : Byte).getLsbD (1 : Line) = true ∧ (Instr.getLong 0x06).operand.getLsbD (2 : Line) = true := by decide
/-- Two states that agree on every register an operation may read and differ in all the others. -/
theorem witness_AccessMatrixOfQueriesAndReset :
    (st (cfg 0xFF 0 0) (rg 0xF8 0x03 0xF9 0 0 0)).regs.keyPress = busy.regs.keyPress ∧
    (st (cfg 0xFF 0 0) (rg 0xF8 0xFC 0x06 0 0 0)).regs.keyRpt = busy.regs.keyRpt ∧
    ((st (cfg 0xFF 0 0) (rg 0x07 0x03 0xF9 0 0 0)).regs.keyPress = busy.regs.keyPress ∧
      (st (cfg 0xFF 0 0) (rg 0x07 0x03 0xF9 0 0 0)).regs.keyState = busy.regs.keyState) ∧
    ((st (cfg 0xFF 0 0) (rg 0xF8 0x03 0x06 0 0 0)).regs.keyPress = busy.regs.keyPress ∧
      (st (cfg 0xFF 0 0) (rg 0xF8 0x03 0x06 0 0 0)).regs.keyRpt = busy.regs.keyRpt) ∧
    ({ busy with pending := [.reset] } : State).resetIsNext = true ∧
    ({ idle with pending := [.reset, .reset] } : State).resetIsNext = true := by decide
/-- Two runs with the same reset and ticks and different queries between them. -/
theorem witness_QueriesDoNotDisturbEngine :
    let s : State := { busy with pending := [.word 0xFE 0x04, .word 0xFF 0x00, .reset, .word 0x00 0x04] }
    let s' : State :=
      { busy with
        regs := { busy.regs with keyPress := 0xFF, keyRpt := 0x00 }
        pending := [.word 0x06 0x03, .word 0xFE 0x04, .reset, .word 0xFF 0x02, .word 0xFF 0x01, .word 0x00 0x04] }
    isQuery (.getShort 0xFF) = true ∧ s.cfg = s'.cfg ∧ s.regs.engine = s'.regs.engine ∧
    (∀ e ∈ s.pending, e.legal = true) ∧ (∀ e ∈ s'.pending, e.legal = true) ∧
    s.pending.filter Event.isEngine = s'.pending.filter Event.isEngine := by decide

/-- A cycle with a query and a tick, one under reset, and one with nothing. -/
def cycles : List PortInputs :=
  [{ rst := false, tick := true, raw := 0xFE, qValid := true, qOp := 0b10, qMask := 0xFF },
   { rst := true, tick := true, raw := 0xFE, qValid := true, qOp := 0b00, qMask := 0xFF },
   { rst := false, tick := false, raw := 0xFE, qValid := false, qOp := 0b00, qMask := 0xFF }]

theorem witness_PortsRefineEventMachine :
    ({ idle with pending := runEvents cycles ++ [.reset] } : State).pending = runEvents cycles ++ [.reset] ∧
    runEvents cycles = [.word 0xFF 0x02, .word 0xFE 0x04, .reset] := by decide
theorem witness_QResultIsQueryEventResult :
    let p : PortInputs := { rst := false, tick := false, raw := 0, qValid := true, qOp := 0b01, qMask := 0xFF }
    p.rst = false ∧ p.qValid = true ∧ ({ busy with pending := p.events } : State).pending = p.events ++ [] ∧
    ({ p with rst := true } : PortInputs).rst = true ∧ ({ p with qValid := false } : PortInputs).qValid = false := by
  decide
/-- The cycle of 95_test_vectors.md V18 commits line 0; in the second state the countdown fires at the tick as well. -/
theorem witness_SameCycleQueryThenTick :
    let p : PortInputs := { rst := false, tick := true, raw := 0xFE, qValid := true, qOp := 0b00, qMask := 0x01 }
    let s : State := { st (cfg 0x01 2 20) (rg 0x00 0x01 0x01 0xFE 0xFE 0x01) with pending := p.events }
    p.rst = false ∧ p.tick = true ∧ p.qValid = true ∧ s.pending = p.events ++ [] ∧
    s.regs.keyState.getLsbD (0 : Line) = false ∧ fires s.cfg p.raw s.regs = true ∧
    s.cfg.repeatMask.getLsbD (0 : Line) = true ∧
    clockEdge s.cfg p s.regs = rg 0x01 0x01 0x01 0xFF 0xFF 0x14 := by decide
theorem witness_ResetOverridesSameCycle :
    let p : PortInputs := { rst := true, tick := true, raw := 0xFE, qValid := true, qOp := 0b00, qMask := 0xFF }
    p.rst = true ∧ ({ busy with pending := p.events ++ [.reset] } : State).pending = p.events ++ [.reset] := by decide

end Sys2Proof.Tests
end

namespace Sys2Proof.StepDecode

open Sys2Proof.Machine Sys2Proof.Laws

/-- What the byte decoder reads from the two bytes of a stored word is what the step fetches. -/
theorem fetchInstr_of_decodeBytes {lo hi : Byte} {i : Instr} {rest : List Byte}
    (h : decodeBytes [lo, hi] = .op i rest) : fetchInstr lo hi = some i := by
  simp [fetchInstr, h, Decoded.instr?]

/-- The table decoder fetches the instruction from the stored bytes of the table word. -/
theorem decodeTableWord_eq_fetchInstr (nbits w : Nat) :
    decodeTableWord nbits w = fetchInstr (storedLow (tableWord nbits w)) (storedHigh (tableWord nbits w)) := rfl

@[simp] theorem withFetchWord_pending (s : State) (nbits w : Nat) :
    (s.withFetchWord nbits w).pending =
      .word (storedLow (tableWord nbits w)) (storedHigh (tableWord nbits w)) :: s.pending := rfl

/-- Taking the placed word away again gives back the state it was placed before. -/
theorem withFetchWord_with_pending (s : State) (nbits w : Nat) :
    { s.withFetchWord nbits w with pending := s.pending } = s := rfl

/-- The operation that `withFetchWord` presents is run by the very next step (00_scope.md R9, 20_memory.md R53). -/
theorem step_withFetchWord {s : State} {nbits w : Nat} {i : Instr} (h : decodeTableWord nbits w = some i) :
    step (s.withFetchWord nbits w) = exec i s := by
  rw [decodeTableWord_eq_fetchInstr] at h
  rw [step_of_word _ _ _ _ i (withFetchWord_pending s nbits w) h, withFetchWord_with_pending]

/-- Settles O6: both decoders read what the step fetches, and the step runs what it fetches (`step_of_word`). -/
theorem stepRunsDecodedInstruction : Obligations.StepRunsDecodedInstruction := by
  constructor
  · intro s lo hi rest i hpending hdecode _
    exact step_of_word s lo hi rest i hpending (fetchInstr_of_decodeBytes hdecode)
  · intro s nbits w i hdecode
    exact step_withFetchWord hdecode

end Sys2Proof.StepDecode

namespace Sys2Proof.StepEffect

open Sys2Proof.Machine Sys2Proof.Laws

/-! ## The registers of reset -/

@[simp] theorem reset_keyState : Regs.reset.keyState = 0#8 := rfl
@[simp] theorem reset_keyPress : Regs.reset.keyPress = 0#8 := rfl
@[simp] theorem reset_keyRpt : Regs.reset.keyRpt = 0#8 := rfl
@[simp] theorem reset_ct0 : Regs.reset.ct0 = 0#8 := rfl
@[simp] theorem reset_ct1 : Regs.reset.ct1 = 0#8 := rfl
@[simp] theorem reset_rpt : Regs.reset.rpt = 0#8 := rfl

/-! ## What a query does to the registers -/

/-- The registers with some event flags cleared: all that a query can do to them (10_state.md R28). -/
def clearEvents (press rept : Byte) (r : Regs) : Regs :=
  { r with keyPress := clearFlags r.keyPress press, keyRpt := clearFlags r.keyRpt rept }

@[simp] theorem clearEvents_keyState (p q : Byte) (r : Regs) : (clearEvents p q r).keyState = r.keyState := rfl
@[simp] theorem clearEvents_keyPress (p q : Byte) (r : Regs) :
    (clearEvents p q r).keyPress = clearFlags r.keyPress p := rfl
@[simp] theorem clearEvents_keyRpt (p q : Byte) (r : Regs) :
    (clearEvents p q r).keyRpt = clearFlags r.keyRpt q := rfl
@[simp] theorem clearEvents_ct0 (p q : Byte) (r : Regs) : (clearEvents p q r).ct0 = r.ct0 := rfl
@[simp] theorem clearEvents_ct1 (p q : Byte) (r : Regs) : (clearEvents p q r).ct1 = r.ct1 := rfl
@[simp] theorem clearEvents_rpt (p q : Byte) (r : Regs) : (clearEvents p q r).rpt = r.rpt := rfl

@[simp] theorem clearFlags_zero (flags : Byte) : clearFlags flags 0#8 = flags :=
  BitVec.and_allOnes

@[simp] theorem zero_clearFlags (bits : Byte) : clearFlags 0#8 bits = 0#8 :=
  BitVec.zero_and

/-- No event is pending after reset, so a query leaves the registers of reset as they are. -/
theorem clearEvents_reset (p q : Byte) : clearEvents p q Regs.reset = Regs.reset := by
  simp [clearEvents, Regs.reset]

theorem consumePress_eq (mask : Byte) (r : Regs) :
    consumePress mask r = (clearEvents (r.keyPress &&& mask) 0 r, r.keyPress &&& mask) := by
  simp [consumePress, clearEvents, selectFlags]

theorem consumeRepeat_eq (mask : Byte) (r : Regs) :
    consumeRepeat mask r = (clearEvents 0 (r.keyRpt &&& mask) r, r.keyRpt &&& mask) := by
  simp [consumeRepeat, clearEvents, selectFlags]

/-! ## What each operation answers -/

theorem exec_getPress (mask : Byte) (s : State) :
    exec (.getPress mask) s =
      .next (s.complete (clearEvents (s.regs.keyPress &&& mask) 0 s.regs) (some (s.regs.keyPress &&& mask))) := by
  simp [exec, execGetPress, getPressRegs, consumePress_eq]

theorem exec_getRpt (mask : Byte) (s : State) :
    exec (.getRpt mask) s =
      .next (s.complete (clearEvents 0 (s.regs.keyRpt &&& mask) s.regs) (some (s.regs.keyRpt &&& mask))) := by
  simp [exec, execGetRpt, getRptRegs, consumeRepeat_eq]

theorem exec_getShort (mask : Byte) (s : State) :
    exec (.getShort mask) s =
      .next (s.complete (clearEvents (s.regs.keyPress &&& releasedMask mask s.regs) 0 s.regs)
        (some (s.regs.keyPress &&& releasedMask mask s.regs))) := by
  simp [exec, execGetShort, getShortRegs, consumePress_eq]

theorem exec_getLong (mask : Byte) (s : State) :
    exec (.getLong mask) s =
      .next (s.complete (clearEvents (s.regs.keyPress &&& repeatedMask mask s.regs) (s.regs.keyRpt &&& mask) s.regs)
        (some (s.regs.keyPress &&& repeatedMask mask s.regs))) := by
  simp [exec, execGetLong, getLongRegs, consumePress_eq, consumeRepeat_eq, clearEvents]

theorem exec_tick (raw : Byte) (s : State) :
    exec (.tick raw) s = .next (s.complete (tickRegs s.cfg raw s.regs) none) := rfl

theorem isQuery_eq_false_iff (i : Instr) : isQuery i = false ↔ ∃ raw, i = .tick raw := by
  cases i <;> simp [isQuery]

/-- A query clears event flags, and does nothing else to the registers or the parameters (10_state.md R28). -/
theorem exec_query_next {q : Instr} {s t : State} (hq : isQuery q = true) (h : exec q s = .next t) :
    t.cfg = s.cfg ∧ ∃ p r : Byte, t.regs = clearEvents p r s.regs := by
  cases q with
  | getPress mask => rw [exec_getPress] at h; cases h; exact ⟨rfl, _, _, rfl⟩
  | getRpt mask => rw [exec_getRpt] at h; cases h; exact ⟨rfl, _, _, rfl⟩
  | getShort mask => rw [exec_getShort] at h; cases h; exact ⟨rfl, _, _, rfl⟩
  | getLong mask => rw [exec_getLong] at h; cases h; exact ⟨rfl, _, _, rfl⟩
  | tick raw => cases hq

/-! ## What a step does to the registers -/

theorem resetIsNext_iff (s : State) : s.resetIsNext = true ↔ ∃ rest, s.pending = .reset :: rest := by
  simp [State.resetIsNext, List.head?_eq_some_iff]

theorem nextInstr?_of_word {s : State} {lo hi : Byte} {rest : List Event} (h : s.pending = .word lo hi :: rest) :
    s.nextInstr? = fetchInstr lo hi := by
  simp [State.nextInstr?, h]

/-- The registers a step can leave, one case for each kind of event it performs (00_scope.md R9). -/
inductive RegsEffect (s : State) : Regs → Prop where
  /-- A clock cycle without an event: the registers hold. -/
  | idle (hpending : s.pending = []) : RegsEffect s s.regs
  /-- `RESET`: the reset values. -/
  | reset (hnext : s.resetIsNext = true) : RegsEffect s Regs.reset
  /-- A query: some event flags are cleared. -/
  | query (q : Instr) (p r : Byte) (hnext : s.nextInstr? = some q) (hq : isQuery q = true) :
      RegsEffect s (clearEvents p r s.regs)
  /-- `TICK(raw)`. -/
  | tick (raw : Byte) (hnext : s.nextInstr? = some (.tick raw)) : RegsEffect s (tickRegs s.cfg raw s.regs)

/-- The registers after an operation, when it is the oldest pending event of `s`; `u` is `s` with that event taken. -/
theorem regsEffect_of_exec {s u t : State} {i : Instr} (hnext : s.nextInstr? = some i)
    (hregs : u.regs = s.regs) (hcfg : u.cfg = s.cfg) (h : exec i u = .next t) :
    t.cfg = s.cfg ∧ RegsEffect s t.regs := by
  cases hq : isQuery i with
  | true =>
    obtain ⟨hc, p, r, hr⟩ := exec_query_next hq h
    rw [hc, hr, hregs]
    exact ⟨hcfg, .query i p r hnext hq⟩
  | false =>
    obtain ⟨raw, rfl⟩ := (isQuery_eq_false_iff i).1 hq
    rw [exec_tick, hregs, hcfg] at h
    cases h
    exact ⟨hcfg, .tick raw hnext⟩

/-- A step that answers next keeps the parameters and leaves registers of one of the four kinds. -/
theorem step_effect {s t : State} (h : step s = .next t) : t.cfg = s.cfg ∧ RegsEffect s t.regs := by
  obtain ⟨hp, rfl⟩ | ⟨rest, hp, rfl⟩ | ⟨lo, hi, rest, i, hp, hf, hexec⟩ := step_next_cases s t h
  · exact ⟨rfl, .idle hp⟩
  · exact ⟨rfl, .reset ((resetIsNext_iff s).2 ⟨rest, hp⟩)⟩
  · exact regsEffect_of_exec (u := { s with pending := rest }) ((nextInstr?_of_word hp).trans hf) rfl rfl hexec

end Sys2Proof.StepEffect

namespace Sys2Proof.TickFacts

open Sys2Proof.Machine Sys2Proof.Laws Sys2Proof.StepEffect

/-! ## The debounce half of a tick -/

/-- 10_state.md R32 (b), (c): a tick leaves the counter of a line idle when the line agreed or committed. -/
theorem counter_idle_of_agreed_or_committed {c : Config} {raw : Byte} {r : Regs} {i : Line}
    (h : (changed c raw r).getLsbD i = false ∨ (commit c raw r).getLsbD i = true) :
    (ct0After c raw r).getLsbD i = true ∧ (ct1After c raw r).getLsbD i = true := by
  rw [ct1After_bit, ct0After_bit]
  cases h with
  | inl hagreed => simp only [hagreed, Bool.and_false, Bool.not_false, Bool.xor_false, and_self]
  | inr hcommit =>
    simp only [commit_bit, Bool.and_eq_true, Bool.not_eq_true'] at hcommit
    obtain ⟨⟨-, hct0⟩, hct1⟩ := hcommit
    simp only [hct0, hct1, Bool.false_and, Bool.not_false, Bool.xor_false, and_self]

theorem counterV_eq_three {r : Regs} {i : Line} (h0 : r.ct0.getLsbD i = true) (h1 : r.ct1.getLsbD i = true) :
    counterV r i = 3 := by
  rw [counterV, h0, h1]
  rfl

/-- No line is pressed after reset, so the lines that disagree at the first tick are the asserted ones. -/
theorem changed_reset_bit (c : Config) (raw : Byte) (i : Line) :
    (changed c raw Regs.reset).getLsbD i = lineAsserted c raw i := by
  simp only [changed_bit, reset_keyState, BitVec.getLsbD_zero, Bool.false_xor, lineAsserted]

/-- Every counter stands at V = 0 after reset, so every line asserted at the first tick commits (10_state.md R30). -/
theorem commit_reset_bit (c : Config) (raw : Byte) (i : Line) :
    (commit c raw Regs.reset).getLsbD i = lineAsserted c raw i := by
  simp only [commit_bit, changed_reset_bit, reset_ct0, reset_ct1, BitVec.getLsbD_zero, Bool.not_false,
    Bool.and_true]

theorem keyStateAfter_reset_bit (c : Config) (raw : Byte) (i : Line) :
    (keyStateAfter c raw Regs.reset).getLsbD i = lineAsserted c raw i := by
  simp only [keyStateAfter_bit, commit_reset_bit, reset_keyState, BitVec.getLsbD_zero, Bool.false_xor]

theorem keyPress_tickRegs_reset_bit (c : Config) (raw : Byte) (i : Line) :
    (tickRegs c raw Regs.reset).keyPress.getLsbD i = lineAsserted c raw i := by
  simp only [tickRegs_keyPress, setFlags_bit, pressEdges, BitVec.getLsbD_and, keyStateAfter_reset_bit,
    commit_reset_bit, reset_keyPress, BitVec.getLsbD_zero, Bool.false_or, Bool.and_self]

/-- At the first tick after reset every line agrees or commits, so it is idle afterwards (10_state.md R30). -/
theorem counterV_tickRegs_reset (c : Config) (raw : Byte) (i : Line) :
    counterV (tickRegs c raw Regs.reset) i = 3 := by
  have h : (changed c raw Regs.reset).getLsbD i = false ∨ (commit c raw Regs.reset).getLsbD i = true := by
    rw [changed_reset_bit, commit_reset_bit]
    exact (Bool.eq_false_or_eq_true _).symm
  obtain ⟨h0, h1⟩ := counter_idle_of_agreed_or_committed h
  exact counterV_eq_three h0 h1

/-! ## The repeat timer -/

/-- 10_state.md R32 (d): a reload replaces the 0 that the countdown reached, so 0 can only be `REPEAT_NEXT`. -/
theorem repeatNext_eq_zero_of_rptAfter {c : Config} {ks rpt : Byte} (h : rptAfter c ks rpt = 0) :
    c.repeatNext = 0 := by
  unfold rptAfter at h
  split at h
  · exact h
  · contradiction

/-- A firing tick sets no bit outside `REPEAT_MASK` (41_tick_press_repeat.md R107). -/
theorem repeatEvents_bit_eligible {c : Config} {ks n : Byte} {i : Line}
    (h : (repeatEvents c ks n).getLsbD i = true) : c.repeatMask.getLsbD i = true := by
  unfold repeatEvents at h
  split at h
  · simp only [eligible, BitVec.getLsbD_and, Bool.and_eq_true] at h
    exact h.2
  · simp at h

/-- While an eligible line is pressed the countdown runs on from `rpt` (41_tick_press_repeat.md R106). -/
theorem countdown_of_eligiblePressed {c : Config} {raw : Byte} {r : Regs}
    (h : eligiblePressed c (tickRegs c raw r) = true) :
    countdown c (keyStateAfter c raw r) r.rpt = r.rpt - 1 := by
  simp only [eligiblePressed, tickRegs_keyState, bne_iff_ne] at h
  rw [countdown, countdownStart, if_neg h]

/-- With no eligible line pressed the countdown starts from `REPEAT_START` (41_tick_press_repeat.md R106). -/
theorem countdown_of_not_eligiblePressed {c : Config} {raw : Byte} {r : Regs}
    (h : eligiblePressed c (tickRegs c raw r) = false) :
    countdown c (keyStateAfter c raw r) r.rpt = c.repeatStart - 1 := by
  simp only [eligiblePressed, tickRegs_keyState, bne_eq_false_iff_eq] at h
  rw [countdown, countdownStart, if_pos h]

theorem fires_eq_true_iff (c : Config) (raw : Byte) (r : Regs) :
    fires c raw r = true ↔ countdown c (keyStateAfter c raw r) r.rpt = 0 := by
  simp [fires]

/-- A tick that does not fire leaves the countdown in `rpt`. -/
theorem tickRegs_rpt_of_not_fires {c : Config} {raw : Byte} {r : Regs} (h : fires c raw r = false) :
    (tickRegs c raw r).rpt = countdown c (keyStateAfter c raw r) r.rpt := by
  have hne : countdown c (keyStateAfter c raw r) r.rpt ≠ 0 := by
    simpa [fires] using h
  rw [tickRegs_rpt, rptAfter, if_neg hne]

/-! ## The first firing of a held sequence -/

/-- How many ticks a held countdown runs before the tick at which it fires; 0 wraps to 255 (41_tick_press_repeat.md
R109). -/
def ticksToFire (rpt : Byte) : Nat := (rpt - 1).toNat

theorem fires_iff_ticksToFire_eq_zero {c : Config} {raw : Byte} {r : Regs}
    (h : eligiblePressed c (tickRegs c raw r) = true) : fires c raw r = true ↔ ticksToFire r.rpt = 0 := by
  rw [fires_eq_true_iff, countdown_of_eligiblePressed h, ticksToFire, ← BitVec.toNat_inj]
  rfl

/-- Each held tick that does not fire brings the firing one tick nearer. -/
theorem ticksToFire_tickRegs {c : Config} {raw : Byte} {r : Regs}
    (h : eligiblePressed c (tickRegs c raw r) = true) (hf : fires c raw r = false) :
    ticksToFire r.rpt = ticksToFire (tickRegs c raw r).rpt + 1 := by
  rw [tickRegs_rpt_of_not_fires hf, countdown_of_eligiblePressed h]
  have hne : r.rpt - 1 ≠ 0 := by
    simpa [fires, countdown_of_eligiblePressed h] using hf
  unfold ticksToFire
  bv_omega

theorem firstFireAt_nil (c : Config) (n : Nat) (r : Regs) : FirstFireAt c [] n r := by
  simp [FirstFireAt, firesAt]

theorem firstFireAt_cons_zero {c : Config} {raw : Byte} {raws : List Byte} {r : Regs} (h : fires c raw r = true) :
    FirstFireAt c (raw :: raws) 0 r := by
  simp [FirstFireAt, firesAt, h]

theorem firstFireAt_cons_succ {c : Config} {raw : Byte} {raws : List Byte} {n : Nat} {r : Regs}
    (h : fires c raw r = false) (ht : FirstFireAt c raws n (tickRegs c raw r)) :
    FirstFireAt c (raw :: raws) (n + 1) r := by
  obtain ⟨hbefore, hat⟩ := ht
  constructor
  · intro k hk
    cases k with
    | zero => exact h
    | succ k => exact hbefore k (by omega)
  · intro hn
    exact hat (by simpa using hn)

/-- While some eligible line is pressed after every tick, the first firing depends on `rpt` alone. -/
theorem firstFireAt_of_heldThroughout {c : Config} {raws : List Byte} {r : Regs}
    (h : heldThroughout c raws r = true) : FirstFireAt c raws (ticksToFire r.rpt) r := by
  induction raws generalizing r with
  | nil => exact firstFireAt_nil c _ r
  | cons raw raws ih =>
    simp only [heldThroughout, Bool.and_eq_true] at h
    obtain ⟨hpressed, hheld⟩ := h
    cases hf : fires c raw r with
    | true =>
      rw [(fires_iff_ticksToFire_eq_zero hpressed).1 hf]
      exact firstFireAt_cons_zero hf
    | false =>
      rw [ticksToFire_tickRegs hpressed hf]
      exact firstFireAt_cons_succ hf (ih hheld)

end Sys2Proof.TickFacts

namespace Sys2Proof.StateProofs

open Sys2Proof.Machine Sys2Proof.Laws Sys2Proof.StepEffect Sys2Proof.TickFacts

/-! ## The invariant of the reachable states -/

/-- `key_rpt & ~REPEAT_MASK == 0`, line by line. -/
theorem and_not_eq_zero_iff (flags mask : Byte) :
    flags &&& ~~~mask = 0 ↔ ∀ i : Line, flags.getLsbD i = true → mask.getLsbD i = true := by
  constructor
  · intro h i hflag
    have hbit := congrArg (fun v : Byte => v.getLsbD i) h
    simpa [hflag] using hbit
  · intro h
    apply BitVec.eq_of_getLsbD_eq
    intro i hi
    have hbit := h ⟨i, hi⟩
    rw [BitVec.getLsbD_and, BitVec.getLsbD_not]
    cases hflag : flags.getLsbD i with
    | false => simp
    | true => simp [hi, hbit hflag]

theorem clearFlags_keeps_eligible {flags mask : Byte} (bits : Byte) (h : flags &&& ~~~mask = 0) :
    clearFlags flags bits &&& ~~~mask = 0 := by
  rw [and_not_eq_zero_iff] at h ⊢
  intro i hi
  rw [clearFlags_bit, Bool.and_eq_true] at hi
  exact h i hi.1

theorem setFlags_repeatEvents_keeps_eligible {c : Config} {flags : Byte} (ks n : Byte)
    (h : flags &&& ~~~c.repeatMask = 0) : setFlags flags (repeatEvents c ks n) &&& ~~~c.repeatMask = 0 := by
  rw [and_not_eq_zero_iff] at h ⊢
  intro i hi
  rw [setFlags_bit, Bool.or_eq_true] at hi
  exact hi.elim (h i) repeatEvents_bit_eligible

/-- 10_state.md R32 (a) is kept by every step. -/
theorem repeatsEligible_of_effect {s : State} {r : Regs} (h : RepeatsEligible s) (he : RegsEffect s r) :
    r.keyRpt &&& ~~~s.cfg.repeatMask = 0 := by
  cases he with
  | idle => exact h
  | reset => simp
  | query q p b => exact clearFlags_keeps_eligible b h
  | tick raw => exact setFlags_repeatEvents_keeps_eligible _ _ h

/-- 10_state.md R32 (d) and R31 are kept by every step: a query of the reset registers changes nothing, and a tick
leaves 0 in `rpt` only from `REPEAT_NEXT`. -/
theorem rpt_zero_of_effect {s : State} {r : Regs}
    (h : s.regs.rpt = 0 → s.cfg.repeatNext = 0 ∨ s.regs = Regs.reset) (he : RegsEffect s r) (hr : r.rpt = 0) :
    s.cfg.repeatNext = 0 ∨ r = Regs.reset := by
  cases he with
  | idle => exact h hr
  | reset => exact .inr rfl
  | query q p b => exact (h hr).imp_right fun hreset => by rw [hreset, clearEvents_reset]
  | tick raw => exact .inl (repeatNext_eq_zero_of_rptAfter hr)

/-- Settles O30: both parts of the invariant are kept by each effect that a step can have. -/
theorem stepKeepsReachableInvariant : Obligations.StepKeepsReachableInvariant := by
  intro s t ⟨heligible, hrpt⟩ hstep
  obtain ⟨hcfg, heffect⟩ := step_effect hstep
  unfold ReachableInv RepeatsEligible
  rw [hcfg]
  exact ⟨repeatsEligible_of_effect heligible heffect, rpt_zero_of_effect hrpt heffect⟩

/-- Settles O31: after reset no repeat event is pending and the registers are those of reset. -/
theorem resetMeetsReachableInvariant : Obligations.ResetMeetsReachableInvariant := by
  have h : ∀ c : Config, ReachableInv (State.resetWith c) := by
    intro c
    exact ⟨by simp [RepeatsEligible], fun _ => .inr rfl⟩
  exact ⟨h _, h⟩

/-! ## Reset and the first tick after it -/

/-- Settles O10: a step on `RESET` is `performReset` (`step_of_reset`), which writes the six zeros. -/
theorem resetLeavesEveryRegisterZero : Obligations.ResetLeavesEveryRegisterZero :=
  ⟨step_of_reset, rfl, fun _ => ⟨rfl, rfl⟩⟩

/-- Settles O11: at the first tick after reset `key_state` and `key_press` become the asserted lines, and every line
agrees or commits. -/
theorem firstTickAfterResetCommits : Obligations.FirstTickAfterResetCommits := by
  constructor
  · intro i
    simp [counterV]
  · intro s raw hreset
    refine ⟨_, exec_tick raw s, fun i => ?_⟩
    simp only [complete_regs, hreset, tickRegs_keyState, keyStateAfter_reset_bit, keyPress_tickRegs_reset_bit,
      counterV_tickRegs_reset]
    exact ⟨fun h => ⟨h, h, trivial⟩, fun h => ⟨h, h, trivial⟩⟩

/-- Settles O12: from `rpt` = 0 a held countdown wraps to 255 and needs 255 ticks to fire; with no eligible line pressed
the first tick reloads it. -/
theorem firstRepeatAfterHeldReset : Obligations.FirstRepeatAfterHeldReset := by
  refine ⟨fun c raw hpressed => ?_, fun c raws hheld => ?_, fun c raw hreleased => ?_⟩
  · rw [tickRegs_rpt, rptAfter, countdown_of_eligiblePressed hpressed]
    simp
  · exact firstFireAt_of_heldThroughout hheld
  · rw [tickRegs_rpt, rptAfter, countdown_of_not_eligiblePressed hreleased]
    simp only [sub_eq_zero]

/-! ## What a tick leaves, and who writes the event bits -/

/-- Settles O32, by the counter rule and the reload rule of a tick. -/
theorem afterTickAgreedOrCommittedIsIdle : Obligations.AfterTickAgreedOrCommittedIsIdle := by
  intro raw s
  exact ⟨_, exec_tick raw s, fun _ h => counter_idle_of_agreed_or_committed h, repeatNext_eq_zero_of_rptAfter⟩

theorem not_rises_of_clearFlags (flags bits : Byte) (i : Line) :
    ¬(flags.getLsbD i = false ∧ (clearFlags flags bits).getLsbD i = true) := by
  rintro ⟨hbefore, hafter⟩
  rw [clearFlags_bit, hbefore] at hafter
  cases hafter

theorem not_falls_of_setFlags (flags bits : Byte) (i : Line) :
    ¬(flags.getLsbD i = true ∧ (setFlags flags bits).getLsbD i = false) := by
  rintro ⟨hbefore, hafter⟩
  rw [setFlags_bit, hbefore] at hafter
  cases hafter

/-- Settles O33, by the effect of the step: a query only clears event bits, a tick only sets them, `RESET` sets none
and an idle cycle changes none. -/
theorem ticksSetAndQueriesClear : Obligations.TicksSetAndQueriesClear := by
  intro s t i hstep
  obtain ⟨-, heffect⟩ := step_effect hstep
  generalize t.regs = r at heffect ⊢
  cases heffect with
  | idle => simp
  | reset hnext => simp [hnext]
  | query q p b hnext hq =>
    refine ⟨fun hrise => ?_, fun _ => .inr ⟨q, hnext, hq⟩, fun hne => absurd rfl hne⟩
    exact (hrise.elim (not_rises_of_clearFlags _ p i) (not_rises_of_clearFlags _ b i)).elim
  | tick raw hnext =>
    refine ⟨fun _ => ⟨raw, hnext⟩, fun hfall => ?_, fun _ => .inr ⟨raw, hnext⟩⟩
    exact (hfall.elim (not_falls_of_setFlags _ _ i) (not_falls_of_setFlags _ _ i)).elim

/-! ## The access matrix -/

/-- Settles O44: the equation of each query names the registers it reads and writes (10_state.md R27). -/
theorem accessMatrixOfQueriesAndReset : Obligations.AccessMatrixOfQueriesAndReset := by
  refine ⟨fun mask s s' hp => ?_, fun mask s s' hr => ?_, fun mask s s' hp hk => ?_, fun mask s s' hp hr => ?_,
    fun s s' hs hs' => ?_⟩
  · refine ⟨_, _, exec_getPress mask s, exec_getPress mask s', ?_, ?_, ?_⟩
    · simp [clearEvents]
    · simp [hp]
    · simp [hp]
  · refine ⟨_, _, exec_getRpt mask s, exec_getRpt mask s', ?_, ?_, ?_⟩
    · simp [clearEvents]
    · simp [hr]
    · simp [hr]
  · refine ⟨_, _, exec_getShort mask s, exec_getShort mask s', ?_, ?_, ?_⟩
    · simp [clearEvents]
    · simp [releasedMask, hp, hk]
    · simp [releasedMask, hp, hk]
  · refine ⟨_, _, exec_getLong mask s, exec_getLong mask s', rfl, ?_, ?_, ?_⟩
    · simp [repeatedMask, hp, hr]
    · simp [hr]
    · simp [repeatedMask, hp, hr]
  · obtain ⟨rest, hpending⟩ := (resetIsNext_iff s).1 hs
    obtain ⟨rest', hpending'⟩ := (resetIsNext_iff s').1 hs'
    exact ⟨_, _, step_of_reset s rest hpending, step_of_reset s' rest' hpending', rfl, rfl⟩

end Sys2Proof.StateProofs

namespace Sys2Proof.AtomicEvents

open Sys2Proof.Machine Sys2Proof.Laws Sys2Proof.StepEffect

/-! ## The frame of an operation -/

/-- 20_memory.md R49, R60: an operation completes by writing the registers and the result, and nothing else. -/
theorem exec_eq_complete (i : Instr) (s : State) : ∃ r v, exec i s = .next (s.complete r v) := by
  cases i with
  | getPress mask => exact ⟨_, _, exec_getPress mask s⟩
  | getRpt mask => exact ⟨_, _, exec_getRpt mask s⟩
  | getShort mask => exact ⟨_, _, exec_getShort mask s⟩
  | getLong mask => exact ⟨_, _, exec_getLong mask s⟩
  | tick raw => exact ⟨_, _, exec_tick raw s⟩

theorem exec_next_frame {i : Instr} {s t : State} (h : exec i s = .next t) :
    t.cfg = s.cfg ∧ t.pending = s.pending := by
  obtain ⟨r, v, hexec⟩ := exec_eq_complete i s
  rw [hexec] at h
  cases h
  exact ⟨rfl, rfl⟩

/-- Settles O9, by the three kinds of step; an idle cycle has no event to take. -/
theorem stepKeepsParameters : Obligations.StepKeepsParameters := by
  intro s t hstep
  obtain ⟨hp, rfl⟩ | ⟨rest, hp, rfl⟩ | ⟨lo, hi, rest, i, hp, -, hexec⟩ := step_next_cases s t hstep
  · simp [hp]
  · simp [hp]
  · simpa [hp] using exec_next_frame hexec

/-! ## What a query clears, it reports -/

theorem cleared_of_falls {flags bits : Byte} {i : Line} (hbefore : flags.getLsbD i = true)
    (hafter : (clearFlags flags bits).getLsbD i = false) : bits.getLsbD i = true := by
  simpa only [clearFlags_bit, hbefore, Bool.true_and, Bool.not_eq_false'] using hafter

/-- 20_memory.md R54: a query reports every press event it clears and every repeat event it clears, except that
`GET_LONG` clears the repeat events of its mask whether it reports their lines or not (42_query.md R126). -/
theorem exec_query_reports_cleared {q : Instr} {s t : State} (hq : isQuery q = true) (h : exec q s = .next t) :
    ∃ p r v : Byte, t = s.complete (clearEvents p r s.regs) (some v) ∧ ∀ i : Line,
      (p.getLsbD i = true → v.getLsbD i = true) ∧
      (r.getLsbD i = true → v.getLsbD i = true ∨ ∃ mask, q = .getLong mask ∧ mask.getLsbD i = true) := by
  cases q with
  | getPress mask => rw [exec_getPress] at h; cases h; exact ⟨_, _, _, rfl, fun i => ⟨id, by simp⟩⟩
  | getRpt mask => rw [exec_getRpt] at h; cases h; exact ⟨_, _, _, rfl, fun i => ⟨by simp, .inl⟩⟩
  | getShort mask => rw [exec_getShort] at h; cases h; exact ⟨_, _, _, rfl, fun i => ⟨id, by simp⟩⟩
  | getLong mask =>
    rw [exec_getLong] at h
    cases h
    refine ⟨_, _, _, rfl, fun i => ⟨id, fun hr => .inr ⟨mask, rfl, ?_⟩⟩⟩
    rw [BitVec.getLsbD_and, Bool.and_eq_true] at hr
    exact hr.2
  | tick raw => cases hq

/-- An operation loses no event: a query reports what it clears, and a tick only sets event bits. -/
theorem exec_loses_no_event {i : Instr} {s t : State} (line : Line) (h : exec i s = .next t) :
    (s.regs.keyPress.getLsbD line = true → t.regs.keyPress.getLsbD line = false →
      ∃ v, t.result = some v ∧ v.getLsbD line = true) ∧
    (s.regs.keyRpt.getLsbD line = true → t.regs.keyRpt.getLsbD line = false →
      (∃ v, t.result = some v ∧ v.getLsbD line = true) ∨ ∃ mask, i = .getLong mask ∧ mask.getLsbD line = true) := by
  cases hq : isQuery i with
  | true =>
    obtain ⟨p, r, v, rfl, hreported⟩ := exec_query_reports_cleared hq h
    obtain ⟨hpress, hrepeat⟩ := hreported line
    exact ⟨fun hb ha => ⟨v, rfl, hpress (cleared_of_falls hb ha)⟩,
      fun hb ha => (hrepeat (cleared_of_falls hb ha)).imp_left fun hv => ⟨v, rfl, hv⟩⟩
  | false =>
    obtain ⟨raw, rfl⟩ := (isQuery_eq_false_iff i).1 hq
    rw [exec_tick] at h
    cases h
    exact ⟨fun hb ha => (StateProofs.not_falls_of_setFlags _ _ line ⟨hb, ha⟩).elim,
      fun hb ha => (StateProofs.not_falls_of_setFlags _ _ line ⟨hb, ha⟩).elim⟩

/-- Settles O34: an idle cycle changes no register, and an operation loses no event. -/
theorem noEventIsLost : Obligations.NoEventIsLost := by
  intro s t line hstep hreset
  obtain ⟨-, rfl⟩ | ⟨rest, hp, -⟩ | ⟨lo, hi, rest, i, hp, hf, hexec⟩ := step_next_cases s t hstep
  · rw [idleCycle_regs]
    exact ⟨fun hb ha => absurd hb (Bool.eq_false_iff.1 ha), fun hb ha => absurd hb (Bool.eq_false_iff.1 ha)⟩
  · rw [(resetIsNext_iff s).2 ⟨rest, hp⟩] at hreset
    cases hreset
  · rw [nextInstr?_of_word hp, hf]
    simpa using exec_loses_no_event line hexec

end Sys2Proof.AtomicEvents

namespace Sys2Proof.SharedCycle

open Sys2Proof.Machine Sys2Proof.Laws Sys2Proof.StepEffect

/-! ## The event bits that a tick sets -/

/-- 41_tick_press_repeat.md R105: the press edges are the rising edges of `key_state`. -/
theorem tickRegs_keyPress_bit (c : Config) (raw : Byte) (r : Regs) (i : Line) :
    (tickRegs c raw r).keyPress.getLsbD i =
      (r.keyPress.getLsbD i || (!r.keyState.getLsbD i && (tickRegs c raw r).keyState.getLsbD i)) := by
  simp only [tickRegs_keyPress, tickRegs_keyState, setFlags_bit, pressEdges, BitVec.getLsbD_and, keyStateAfter_bit]
  cases r.keyState.getLsbD i <;> cases (commit c raw r).getLsbD i <;> rfl

/-- 41_tick_press_repeat.md R107: a firing sets the repeat event of every pressed eligible line. -/
theorem tickRegs_keyRpt_bit (c : Config) (raw : Byte) (r : Regs) (i : Line) :
    (tickRegs c raw r).keyRpt.getLsbD i =
      (r.keyRpt.getLsbD i ||
        (fires c raw r && (tickRegs c raw r).keyState.getLsbD i && c.repeatMask.getLsbD i)) := by
  simp only [tickRegs_keyRpt, tickRegs_keyState, setFlags_bit]
  cases hf : fires c raw r with
  | true =>
    rw [TickFacts.fires_eq_true_iff] at hf
    rw [repeatEvents, if_pos hf, eligible, BitVec.getLsbD_and, Bool.true_and]
  | false =>
    rw [← Bool.not_eq_true, TickFacts.fires_eq_true_iff] at hf
    rw [repeatEvents, if_neg hf]
    simp

/-- The fire test reads no event bit, so a query of the same cycle does not change it (10_state.md R28). -/
theorem fires_clearEvents (c : Config) (raw p q : Byte) (r : Regs) :
    fires c raw (clearEvents p q r) = fires c raw r := rfl

/-! ## The port-level query is the query event -/

theorem queryOp_cases (op : BitVec 2) : op = 0b00 ∨ op = 0b01 ∨ op = 0b10 ∨ op = 0b11 := by
  revert op
  decide

/-- 30_encoding.md R68, R69: the query that F selects returns the answer of the ports and clears what they clear. -/
theorem exec_queryOfF (op : BitVec 2) (mask : Byte) (s : State) :
    exec (queryOfF op mask) s =
      .next (s.complete (clearEvents (clearedPress op mask s.regs) (clearedRepeat op mask s.regs) s.regs)
        (some (queryAnswer op mask s.regs))) := by
  obtain rfl | rfl | rfl | rfl := queryOp_cases op
  · exact exec_getPress mask s
  · exact exec_getRpt mask s
  · exact exec_getShort mask s
  · exact exec_getLong mask s

theorem queryCleared_of_qValid {p : PortInputs} (h : p.qValid = true) (r : Regs) :
    p.queryCleared r = clearEvents (clearedPress p.qOp p.qMask r) (clearedRepeat p.qOp p.qMask r) r :=
  if_pos h

theorem qResult_of_query {p : PortInputs} (hrst : p.rst = false) (hvalid : p.qValid = true) (r : Regs) :
    p.qResult r = some (queryAnswer p.qOp p.qMask r) := by
  simp [PortInputs.qResult, hrst, hvalid]

theorem clockEdge_of_tick {p : PortInputs} (hrst : p.rst = false) (htick : p.tick = true) (c : Config) (r : Regs) :
    clockEdge c p r = tickRegs c p.raw (p.queryCleared r) := by
  simp [clockEdge, hrst, htick]

/-- Settles O48: the query's event clears what the ports clear, and the tick's event, on what it left, sets its bits
last. -/
theorem sameCycleQueryThenTick : Obligations.SameCycleQueryThenTick := by
  intro p s later hrst htick hvalid _
  refine ⟨_, _, exec_queryOfF p.qOp p.qMask _, exec_tick p.raw _, ?_, qResult_of_query hrst hvalid s.regs,
    fun i => ⟨fun hreleased hpressed => ?_, fun hfires hpressed heligible => ?_⟩⟩
  · rw [clockEdge_of_tick hrst htick, queryCleared_of_qValid hvalid]
    rfl
  · rw [complete_regs] at hpressed ⊢
    rw [tickRegs_keyPress_bit, hpressed, complete_regs, clearEvents_keyState, hreleased]
    simp
  · rw [complete_regs] at hpressed ⊢
    rw [tickRegs_keyRpt_bit, hpressed, complete_regs, fires_clearEvents, complete_cfg, hfires, heligible]
    simp

/-! ## Reset in a shared cycle -/

theorem events_of_rst {p : PortInputs} (h : p.rst = true) : p.events = [.reset] :=
  if_pos h

/-- Settles O49: a cycle with `rst` = 1 is the one event `RESET`, whatever the other ports hold. -/
theorem resetOverridesSameCycle : Obligations.ResetOverridesSameCycle := by
  intro p s later hrst hpending
  rw [events_of_rst hrst] at hpending
  exact ⟨if_pos hrst, by simp [PortInputs.qResult, hrst], _, step_of_reset s later hpending, rfl, rfl, rfl, rfl⟩

end Sys2Proof.SharedCycle

namespace Sys2Proof.WordEncoding

open Sys2Proof.Machine Sys2Proof.Laws

/-! ## Operation words -/

theorem opWord_exists_fields (w : OpWord) : ∃ (k : BitVec 1) (f : BitVec 2) (d : Byte), w = k ++ f ++ d :=
  ⟨_, _, _, (opWord_eq_fields w).symm⟩

/-- Operation selection on a word written as K : F : D (30_encoding.md R72). -/
theorem decodeWord_append (k : BitVec 1) (f : BitVec 2) (d : Byte) :
    decodeWord (k ++ f ++ d) =
      if k = 0 then some (queryOfF f d) else if f = 0 then some (.tick d) else none := by
  obtain ⟨hk, hf, hd⟩ := fields_of_append k f d
  rw [decodeWord, hk, hf, hd]

theorem encodeWord_queryOfF (f : BitVec 2) (mask : Byte) :
    encodeWord (queryOfF f mask) = (0 : BitVec 1) ++ f ++ mask := by
  obtain rfl | rfl | rfl | rfl := SharedCycle.queryOp_cases f <;> rfl

theorem decodeWord_encodeWord (i : Instr) : decodeWord (encodeWord i) = some i := by
  cases i <;> rw [encodeWord, decodeWord_append] <;> rfl

/-- An operation has one operation word: K and F name its row, and D is its operand. -/
theorem encodeWord_of_decodeWord {w : OpWord} {i : Instr} (h : decodeWord w = some i) : encodeWord i = w := by
  obtain ⟨k, f, d, rfl⟩ := opWord_exists_fields w
  rw [decodeWord_append] at h
  obtain rfl | rfl := BitVec.eq_zero_or_eq_one k
  · rw [if_pos (show (0#1 : BitVec 1) = 0 from rfl)] at h
    cases h
    exact encodeWord_queryOfF f d
  · rw [if_neg (by decide)] at h
    split at h
    next hf =>
      cases h
      rw [hf]
      rfl
    next => cases h

theorem decodeWord_eq_some_iff (w : OpWord) (i : Instr) : decodeWord w = some i ↔ w = encodeWord i :=
  ⟨fun h => (encodeWord_of_decodeWord h).symm, fun h => h ▸ decodeWord_encodeWord i⟩

/-- The mask 0x700 of 30_encoding.md R72 leaves K and F of a word, so with D it leaves nothing out. -/
theorem opWord_eq_of_row_of_operand {w w' : OpWord} (hrow : w &&& 0x700 = w' &&& 0x700)
    (hdata : fieldD w = fieldD w') : w = w' := by
  apply BitVec.eq_of_getLsbD_eq
  intro i hi
  by_cases h8 : i < 8
  · simpa [fieldD, h8] using congrArg (BitVec.getLsbD · i) hdata
  · have hmask : (0x700 : OpWord).getLsbD i = true := by
      obtain rfl | rfl | rfl : i = 8 ∨ i = 9 ∨ i = 10 := by omega
      all_goals rfl
    have hbit := congrArg (BitVec.getLsbD · i) hrow
    simpa only [BitVec.getLsbD_and, hmask, Bool.and_true] using hbit

theorem encodingFitsRow (i : Instr) : EncodingFitsRow.Statement i := by
  cases i with
  | getPress mask => exact EncodingFitsRow.getPress mask
  | getRpt mask => exact EncodingFitsRow.getRpt mask
  | getShort mask => exact EncodingFitsRow.getShort mask
  | getLong mask => exact EncodingFitsRow.getLong mask
  | tick raw => exact EncodingFitsRow.tick raw

/-- Being the word of an operation is lying in its row with its operand in D (30_encoding.md R72). -/
theorem eq_encodeWord_iff_row (w : OpWord) (i : Instr) :
    w = encodeWord i ↔ w &&& 0x700 = i.rowMatch ∧ fieldD w = i.operand := by
  obtain ⟨hrow, hdata, -⟩ := encodingFitsRow i
  constructor
  · rintro rfl
    exact ⟨hrow, hdata⟩
  · rintro ⟨hrow', hdata'⟩
    exact opWord_eq_of_row_of_operand (hrow'.trans hrow.symm) (hdata'.trans hdata.symm)

/-- Settles O2: the word of an operation is the only one in its row with its operand in D. -/
theorem operationSelectedByRowMatch : Obligations.OperationSelectedByRowMatch := by
  refine ⟨fun w i => ?_, fun mask => decodeWord_encodeWord (.getPress mask),
    fun mask => decodeWord_encodeWord (.getRpt mask), fun mask => decodeWord_encodeWord (.getShort mask),
    fun mask => decodeWord_encodeWord (.getLong mask), fun raw => decodeWord_encodeWord (.tick raw)⟩
  rw [decodeWord_eq_some_iff]
  exact eq_encodeWord_iff_row w i

/-- Settles O5: each of the words is the encoding of its operation. -/
theorem writtenOutWordsDecode : Obligations.WrittenOutWordsDecode :=
  ⟨decodeWord_encodeWord (.getPress 0xFF), decodeWord_encodeWord (.getRpt 0x06),
    decodeWord_encodeWord (.getShort 0xA5), decodeWord_encodeWord (.getLong 0x06),
    decodeWord_encodeWord (.tick 0xFE)⟩

/-! ## Stored words -/

/-- `zext_16(w)` is the word under five zero bits (30_encoding.md R75). -/
theorem zeroExtend_eq_append (w : OpWord) : w.setWidth 16 = (0 : BitVec 5) ++ w :=
  BitVec.setWidth_eq_append (by decide)

theorem decodeStored_append (a : BitVec 5) (w : OpWord) :
    decodeStored (a ++ w) = if a = 0 then decodeWord w else none := by
  obtain ⟨htop, hword⟩ := storedParts_of_append a w
  rw [decodeStored, htop, hword]

theorem decodeStored_setWidth (w : OpWord) : decodeStored (w.setWidth 16) = decodeWord w := by
  rw [zeroExtend_eq_append, decodeStored_append, if_pos rfl]

theorem decodeStored_eq_some_iff (v : StoredWord) (i : Instr) : decodeStored v = some i ↔ v = encodeStored i := by
  constructor
  · intro h
    rw [← storedWord_eq_fields v, decodeStored_append] at h
    split at h
    next htop =>
      rw [← storedWord_eq_fields v, htop, encodeStored, encodeWord_of_decodeWord h, zeroExtend_eq_append]
    next => cases h
  · rintro rfl
    rw [encodeStored, decodeStored_setWidth, decodeWord_encodeWord]

theorem storedOfBytes_eq_iff (lo hi : Byte) (v : StoredWord) :
    storedOfBytes lo hi = v ↔ lo = storedLow v ∧ hi = storedHigh v := by
  constructor
  · rintro rfl
    obtain ⟨hlow, hhigh⟩ := low_high_storedOfBytes lo hi
    exact ⟨hlow.symm, hhigh.symm⟩
  · rintro ⟨rfl, rfl⟩
    exact storedOfBytes_low_high v

theorem decodeBytes_two_eq_op_iff (lo hi : Byte) (tail rest : List Byte) (i : Instr) :
    decodeBytes (lo :: hi :: tail) = .op i rest ↔ decodeStored (storedOfBytes lo hi) = some i ∧ tail = rest := by
  rw [decodeBytes]
  cases decodeStored (storedOfBytes lo hi) <;> simp

/-- An operation is read from a stream exactly when the stream begins with its stored bytes. -/
theorem decodeBytes_eq_op_iff (bytes rest : List Byte) (i : Instr) :
    decodeBytes bytes = .op i rest ↔ bytes = encode i ++ rest := by
  match bytes with
  | [] => simp [decodeBytes, encode]
  | [_] => simp [decodeBytes, encode]
  | lo :: hi :: tail =>
    rw [decodeBytes_two_eq_op_iff, decodeStored_eq_some_iff, storedOfBytes_eq_iff]
    simp [encode, and_assoc]

/-- Settles O1: both directions are `decodeBytes_eq_op_iff`. -/
theorem storedWordsRoundTrip : Obligations.StoredWordsRoundTrip :=
  ⟨fun i rest _ => (decodeBytes_eq_op_iff _ rest i).2 rfl,
    fun bytes rest i => (decodeBytes_eq_op_iff bytes rest i).1⟩

/-! ## The reserved values -/

/-- The reserved words are those with K = 1 and F not `00` (30_encoding.md R76). -/
theorem decodeWord_eq_none_iff (w : OpWord) : decodeWord w = none ↔ fieldK w ≠ 0 ∧ fieldF w ≠ 0 := by
  rw [decodeWord]
  by_cases hk : fieldK w = 0
  · simp only [hk, if_true, ne_eq, not_true, false_and, reduceCtorEq]
  · by_cases hf : fieldF w = 0
    · simp only [hk, hf, if_true, if_false, ne_eq, not_true, and_false, reduceCtorEq]
    · simp only [hk, hf, if_false, ne_eq, not_false_iff, and_self]

/-- A stored value spells nothing when a bit above bit 10 is set or its word is reserved (30_encoding.md R75, R76). -/
theorem decodeStored_eq_none_iff_fields (v : StoredWord) : decodeStored v = none ↔
    v.extractLsb' 11 5 ≠ 0 ∨ fieldK (v.extractLsb' 0 11) ≠ 0 ∧ fieldF (v.extractLsb' 0 11) ≠ 0 := by
  rw [← decodeWord_eq_none_iff, decodeStored]
  by_cases htop : v.extractLsb' 11 5 = 0
  · simp only [htop, if_true, ne_eq, not_true, false_or]
  · simp only [htop, if_false, ne_eq, not_false_iff, true_or]

/-- As numbers, those values are the ones from 0x500 on. -/
theorem decodeStored_eq_none_iff (v : StoredWord) : decodeStored v = none ↔ 0x500 ≤ v.toNat := by
  rw [decodeStored_eq_none_iff_fields]
  simp only [fieldK, fieldF, ne_eq, ← BitVec.toNat_inj, BitVec.extractLsb'_toNat, BitVec.ofNat_eq_ofNat,
    BitVec.toNat_ofNat, Nat.shiftRight_eq_div_pow]
  omega

theorem fetchInstr_eq_none_iff (lo hi : Byte) : fetchInstr lo hi = none ↔ 0x500 ≤ lo.toNat + 256 * hi.toNat := by
  rw [fetchInstr_eq, decodeStored_eq_none_iff, storedOfBytes_toNat]

/-! ## The stored bytes -/

theorem encode_value (i : Instr) :
    (encodeWord i).toNat = (storedLow (encodeStored i)).toNat + 256 * (storedHigh (encodeStored i)).toNat := by
  rw [← storedOfBytes_toNat, storedOfBytes_low_high, encodeStored, BitVec.toNat_setWidth_of_le (by decide)]

/-- Settles O4: the word has eleven bits, and a high byte of 8 or more makes a value past 0x500. -/
theorem storedFormLittleEndian : Obligations.StoredFormLittleEndian := by
  constructor
  · intro i
    have hvalue := encode_value i
    have hword := (encodeWord i).isLt
    exact ⟨_, _, rfl, hvalue, by omega⟩
  · intro lo hi hhigh
    rw [fetchInstr_eq_none_iff]
    omega

end Sys2Proof.WordEncoding

namespace Sys2Proof.PortCycles

open Sys2Proof.Machine Sys2Proof.Laws Sys2Proof.StepEffect Sys2Proof.WordEncoding Sys2Proof.SharedCycle

/-! ## The event of an operation -/

theorem fetchInstr_word_encode (i : Instr) :
    fetchInstr (storedLow (encodeStored i)) (storedHigh (encodeStored i)) = some i := by
  rw [fetchInstr_eq, storedOfBytes_low_high, (decodeStored_eq_some_iff _ i).2 rfl]

/-- The step on an operation's event is the operation. -/
theorem step_of_instrEvent {s : State} {i : Instr} {rest : List Event} (h : s.pending = instrEvent i :: rest) :
    step s = exec i { s with pending := rest } :=
  step_of_word s _ _ rest i h (fetchInstr_word_encode i)

/-- The word of an operation is legal (`EncodingFitsRow`), and its stored form has no bit above bit 10. -/
theorem instrEvent_legal (i : Instr) : (instrEvent i).legal = true := by
  obtain ⟨-, -, hlegal⟩ := encodingFitsRow i
  obtain ⟨htop, hword⟩ := storedParts_of_append 0 (encodeWord i)
  rw [instrEvent, wordEvent, Event.legal, storedOfBytes_low_high, zeroExtend_eq_append, StoredWord.legal, htop, hword,
    hlegal]
  rfl

/-! ## The events of a cycle -/

/-- The event of the cycle's query, where there is one (30_encoding.md R80). -/
def queryEvents (p : PortInputs) : List Event := if p.qValid then [instrEvent (queryOfF p.qOp p.qMask)] else []

/-- The event of the cycle's tick, where there is one (30_encoding.md R80). -/
def tickEvents (p : PortInputs) : List Event := if p.tick then [instrEvent (.tick p.raw)] else []

theorem events_of_not_rst {p : PortInputs} (h : p.rst = false) : p.events = queryEvents p ++ tickEvents p := by
  rw [PortInputs.events, h, queryEvents, tickEvents, instrEvent, encodeWord_queryOfF]
  rfl

theorem events_legal {p : PortInputs} {e : Event} (h : e ∈ p.events) : e.legal = true := by
  cases hrst : p.rst with
  | true =>
    rw [events_of_rst hrst, List.mem_singleton] at h
    rw [h]
    rfl
  | false =>
    rw [events_of_not_rst hrst, List.mem_append] at h
    obtain hquery | htick := h
    · rw [queryEvents, List.mem_ite_nil_right, List.mem_singleton] at hquery
      rw [hquery.2]
      exact instrEvent_legal _
    · rw [tickEvents, List.mem_ite_nil_right, List.mem_singleton] at htick
      rw [htick.2]
      exact instrEvent_legal _

/-! ## Refusals -/

/-- Only a stored word that spells no operation is refused, and by that name (60_exceptions.md R142). -/
theorem step_refused_iff (s : State) (why : Refusal) : step s = .refused why ↔
    ∃ lo hi rest, s.pending = .word lo hi :: rest ∧ fetchInstr lo hi = none ∧
      why = .reservedOperationWord (storedOfBytes lo hi) := by
  constructor
  · intro h
    cases hp : s.pending with
    | nil => rw [step_of_empty s hp] at h; cases h
    | cons e rest =>
      cases e with
      | reset => rw [step_of_reset s rest hp] at h; cases h
      | word lo hi =>
        cases hf : fetchInstr lo hi with
        | none => rw [step_of_reserved s lo hi rest hp hf] at h; cases h; exact ⟨lo, hi, rest, rfl, hf, rfl⟩
        | some i =>
          obtain ⟨r, v, hexec⟩ := AtomicEvents.exec_eq_complete i { s with pending := rest }
          rw [step_of_word s lo hi rest i hp hf, hexec] at h
          cases h
  · rintro ⟨lo, hi, rest, hp, hf, rfl⟩
    exact step_of_reserved s lo hi rest hp hf

/-- Settles O3, by `decodeStored_eq_none_iff` for the values, `step_refused_iff` for the steps and `events_legal` for
the ports. -/
theorem reservedWordsRefusedByName : Obligations.ReservedWordsRefusedByName := by
  refine ⟨decodeStored_eq_none_iff, fun s lo hi rest hp => ?_, fun s why h => ?_, fun p e => events_legal⟩
  · rw [← fetchInstr_eq_none_iff, step_refused_iff]
    constructor
    · intro hf
      exact ⟨lo, hi, rest, hp, hf, rfl⟩
    · rintro ⟨lo', hi', rest', hp', hf, -⟩
      rw [hp] at hp'
      cases hp'
      exact hf
  · obtain ⟨lo, hi, rest, hp, -, hwhy⟩ := (step_refused_iff s why).1 h
    exact ⟨lo, hi, rest, hp, hwhy⟩

/-! ## Runs -/

/-- A run in two parts. -/
theorem run_add {m n : Nat} {s t : State} (h : core.run m s = .next t) : core.run (m + n) s = core.run n t := by
  induction m generalizing s with
  | zero =>
    cases h
    rw [Nat.zero_add]
  | succ m ih =>
    rw [Nat.succ_add]
    simp only [Host.Core.run] at h ⊢
    cases hs : core.step s with
    | next u => rw [hs] at h; exact ih h
    | fault f => rw [hs] at h; cases h
    | refused r => rw [hs] at h; cases h

theorem run_one {s t : State} (h : step s = .next t) : core.run 1 s = .next t := by
  have hcore : core.step s = .next t := h
  simp only [Host.Core.run, hcore]

/-- Under the parameters `c`, a machine whose oldest pending events are `es` takes the registers `r` to `r'` by
performing them, and leaves the parameters and the later events. -/
def Performs (c : Config) (es : List Event) (r r' : Regs) : Prop :=
  ∀ (s : State) (later : List Event), s.cfg = c → s.regs = r → s.pending = es ++ later →
    ∃ t, core.run es.length s = .next t ∧ t.regs = r' ∧ t.cfg = c ∧ t.pending = later

theorem performs_nil (c : Config) (r : Regs) : Performs c [] r r :=
  fun s _ hcfg hregs hpending => ⟨s, rfl, hregs, hcfg, hpending⟩

theorem performs_append {c : Config} {es fs : List Event} {r r' r'' : Regs} (hes : Performs c es r r')
    (hfs : Performs c fs r' r'') : Performs c (es ++ fs) r r'' := by
  intro s later hcfg hregs hpending
  rw [List.append_assoc] at hpending
  obtain ⟨t, hrun, hregs', hcfg', hpending'⟩ := hes s _ hcfg hregs hpending
  rw [List.length_append, run_add hrun]
  exact hfs t later hcfg' hregs' hpending'

theorem performs_reset (c : Config) (r : Regs) : Performs c [.reset] r Regs.reset :=
  fun s later hcfg _ hpending => ⟨_, run_one (step_of_reset s later hpending), rfl, hcfg, rfl⟩

/-! ## Clock cycles -/

theorem performs_queryEvents (c : Config) (p : PortInputs) (r : Regs) :
    Performs c (queryEvents p) r (p.queryCleared r) := by
  cases hvalid : p.qValid with
  | true =>
    rw [queryEvents, if_pos hvalid, queryCleared_of_qValid hvalid]
    rintro s later hcfg rfl hpending
    exact ⟨_, run_one ((step_of_instrEvent hpending).trans (exec_queryOfF p.qOp p.qMask _)), rfl, hcfg, rfl⟩
  | false =>
    rw [queryEvents, PortInputs.queryCleared, hvalid]
    exact performs_nil c r

theorem performs_tickEvents (c : Config) (p : PortInputs) (r : Regs) :
    Performs c (tickEvents p) r (if p.tick then tickRegs c p.raw r else r) := by
  cases htick : p.tick with
  | true =>
    rw [tickEvents, if_pos htick, if_pos rfl]
    rintro s later rfl rfl hpending
    exact ⟨_, run_one ((step_of_instrEvent hpending).trans (exec_tick p.raw _)), rfl, rfl, rfl⟩
  | false =>
    rw [tickEvents, htick]
    exact performs_nil c r

/-- 30_encoding.md R80: the events of a cycle take the registers to those after its rising edge. -/
theorem performs_events (c : Config) (p : PortInputs) (r : Regs) : Performs c p.events r (clockEdge c p r) := by
  cases hrst : p.rst with
  | true =>
    rw [events_of_rst hrst, clockEdge, if_pos hrst]
    exact performs_reset c r
  | false =>
    rw [events_of_not_rst hrst, clockEdge, hrst]
    exact performs_append (performs_queryEvents c p r) (performs_tickEvents c p _)

theorem performs_runEvents (c : Config) (ps : List PortInputs) (r : Regs) :
    Performs c (runEvents ps) r (clockEdges c ps r) := by
  induction ps generalizing r with
  | nil => exact performs_nil c r
  | cons p ps ih => exact performs_append (performs_events c p r) (ih _)

/-- Settles O46, by induction over the cycles (`performs_runEvents`). -/
theorem portsRefineEventMachine : Obligations.PortsRefineEventMachine :=
  fun ps s later hpending => performs_runEvents s.cfg ps s.regs s later rfl rfl hpending

/-! ## The result of a cycle -/

/-- Settles O47: the first event of such a cycle is its query's. -/
theorem qResultIsQueryEventResult : Obligations.QResultIsQueryEventResult := by
  constructor
  · intro p s later hrst hvalid hpending
    rw [events_of_not_rst hrst, queryEvents, if_pos hvalid] at hpending
    refine ⟨_, (step_of_instrEvent hpending).trans (exec_queryOfF p.qOp p.qMask _), ?_, rfl, ?_⟩
    · exact (qResult_of_query hrst hvalid s.regs).symm
    · exact (queryCleared_of_qValid hvalid s.regs).symm
  · intro p r h
    rw [PortInputs.qResult]
    obtain hrst | hvalid := h
    · simp [hrst]
    · simp [hvalid]

/-! ## Single steps -/

/-- Settles O7: with nothing pending the step is `idleCycle`, which writes the result alone. -/
theorem idleCycleHolds : Obligations.IdleCycleHolds :=
  step_of_empty

/-- Settles O43: both are query-press with the same effective mask (30_encoding.md R79). -/
theorem getShortIsGetPressOnReleased : Obligations.GetShortIsGetPressOnReleased :=
  fun mask s => ⟨_, exec_getShort mask s, exec_getPress (releasedMask mask s.regs) s⟩

end Sys2Proof.PortCycles

namespace Sys2Proof.TraceText

open Sys2Proof.Machine Sys2Proof.Laws

/-! ## Tokens -/

/-- A character that stands inside a token: it begins no comment and separates nothing. -/
def isTokenChar (ch : Char) : Bool := !ch.isWhitespace && ch != ';' && ch != '#'

/-- A list of characters that the reader takes as one token when white space stands around it. -/
def IsToken (cs : List Char) : Prop := cs = [';'] ∨ cs ≠ [] ∧ ∀ ch ∈ cs, isTokenChar ch = true

/-- Tokens as a line shows them, with one space between any two. -/
def spaced (ts : List (List Char)) : List Char := [' '].intercalate ts

theorem isTokenChar_iff (ch : Char) : isTokenChar ch = true ↔ ch.isWhitespace = false ∧ ch ≠ ';' ∧ ch ≠ '#' := by
  simp [isTokenChar, and_assoc]

/-- The characters of a token are read into the current token. -/
theorem tokensFrom_append {cs : List Char} (h : ∀ ch ∈ cs, isTokenChar ch = true) (cur rest : List Char) :
    tokensFrom cur (cs ++ rest) = tokensFrom (cs.reverse ++ cur) rest := by
  induction cs generalizing cur with
  | nil => rfl
  | cons ch cs ih =>
    rw [List.forall_mem_cons, isTokenChar_iff] at h
    obtain ⟨⟨hspace, hsemi, -⟩, hcs⟩ := h
    rw [List.cons_append, tokensFrom, hspace, if_neg Bool.false_ne_true, if_neg hsemi, ih hcs, List.reverse_cons,
      List.append_assoc]
    rfl

theorem tokensFrom_of_isToken {cs : List Char} (h : IsToken cs) : tokensFrom [] cs = [cs] := by
  obtain rfl | ⟨hne, hcs⟩ := h
  · rfl
  · have hread := tokensFrom_append hcs [] []
    rw [List.append_nil, List.append_nil] at hread
    rw [hread, tokensFrom]
    simp [hne]

theorem tokensFrom_isToken_space {cs : List Char} (h : IsToken cs) (rest : List Char) :
    tokensFrom [] (cs ++ ' ' :: rest) = cs :: tokensFrom [] rest := by
  obtain rfl | ⟨hne, hcs⟩ := h
  · rfl
  · rw [tokensFrom_append hcs, tokensFrom]
    have hspace : ' '.isWhitespace = true := rfl
    simp [hne, hspace]

theorem spaced_singleton (cs : List Char) : spaced [cs] = cs := by
  simp [spaced]

theorem spaced_cons_cons (cs ds : List Char) (ts : List (List Char)) :
    spaced (cs :: ds :: ts) = cs ++ ' ' :: spaced (ds :: ts) := by
  simp [spaced, List.intercalate]

theorem tokensFrom_spaced {ts : List (List Char)} (h : ∀ cs ∈ ts, IsToken cs) : tokensFrom [] (spaced ts) = ts := by
  induction ts with
  | nil => rfl
  | cons cs ts ih =>
    rw [List.forall_mem_cons] at h
    obtain ⟨hcs, hts⟩ := h
    cases ts with
    | nil => rw [spaced_singleton, tokensFrom_of_isToken hcs]
    | cons ds ts => rw [spaced_cons_cons, tokensFrom_isToken_space hcs, ih hts]

theorem not_comment_of_isToken {cs : List Char} (h : IsToken cs) {ch : Char} (hch : ch ∈ cs) : ch ≠ '#' := by
  obtain rfl | ⟨-, hcs⟩ := h
  · rw [List.mem_singleton] at hch
    rw [hch]
    decide
  · exact ((isTokenChar_iff ch).1 (hcs ch hch)).2.2

theorem not_comment_of_spaced {ts : List (List Char)} (h : ∀ cs ∈ ts, IsToken cs) {ch : Char}
    (hch : ch ∈ spaced ts) : ch ≠ '#' := by
  induction ts with
  | nil => cases hch
  | cons cs ts ih =>
    rw [List.forall_mem_cons] at h
    obtain ⟨hcs, hts⟩ := h
    cases ts with
    | nil =>
      rw [spaced_singleton] at hch
      exact not_comment_of_isToken hcs hch
    | cons ds ts =>
      rw [spaced_cons_cons, List.mem_append, List.mem_cons] at hch
      obtain hch | rfl | hch := hch
      · exact not_comment_of_isToken hcs hch
      · decide
      · exact ih hts hch

/-- A line written as spaced tokens is read as those tokens. -/
theorem tokens_spaced {ts : List (List Char)} (h : ∀ cs ∈ ts, IsToken cs) : tokens (spaced ts) = ts := by
  have hline : stripComment (spaced ts) = spaced ts := by
    rw [stripComment, List.takeWhile_eq_self_iff]
    intro ch hch
    rw [bne_iff_ne]
    exact not_comment_of_spaced h hch
  rw [tokens, hline, tokensFrom_spaced h]

/-! ## Operands -/

theorem digitValue_hexDigit : ∀ n < 16, digitValue 16 (hexDigit n) = some n := by
  decide

theorem isTokenChar_hexDigit : ∀ n < 16, isTokenChar (hexDigit n) = true := by
  decide

theorem parseByte_formatByte (b : Byte) : parseByte (formatByte b) = some b := by
  have hb := b.isLt
  have hhigh := digitValue_hexDigit (b.toNat / 16) (by omega)
  have hlow := digitValue_hexDigit (b.toNat % 16) (Nat.mod_lt _ (by decide))
  have hnumber : parseNumber (formatByte b) = some b.toNat := by
    have hsum : 16 * (16 * 0 + b.toNat / 16) + b.toNat % 16 = b.toNat := by omega
    simp only [formatByte, parseNumber, digits, List.isEmpty_cons, Bool.false_eq_true, if_false, digitsFrom, hhigh,
      hlow, hsum]
  simp only [parseByte, hnumber, hb, if_true, BitVec.ofNat_toNat, BitVec.setWidth_eq]

theorem isToken_formatByte (b : Byte) : IsToken (formatByte b) := by
  refine .inr ⟨List.cons_ne_nil _ _, ?_⟩
  have hb := b.isLt
  simp only [formatByte, List.forall_mem_cons]
  exact ⟨rfl, rfl, isTokenChar_hexDigit _ (by omega), isTokenChar_hexDigit _ (by omega), by simp⟩

theorem formatByte_ne_semicolon (b : Byte) : formatByte b ≠ [';'] := by
  simp [formatByte]

/-! ## Mnemonics -/

theorem isToken_of_all {cs : List Char} (hne : cs ≠ []) (h : cs.all isTokenChar = true) : IsToken cs :=
  .inr ⟨hne, List.all_eq_true.1 h⟩

theorem isToken_instrMnemonic (i : Instr) : IsToken (instrMnemonic i) := by
  cases i <;> exact isToken_of_all (List.cons_ne_nil _ _) rfl

theorem isToken_semicolon : IsToken [';'] := .inl rfl

theorem isToken_arrow : IsToken "->".toList := isToken_of_all (List.cons_ne_nil _ _) rfl

theorem isToken_repetition : IsToken "x3".toList := isToken_of_all (List.cons_ne_nil _ _) rfl

theorem formatInstr_eq_spaced (i : Instr) : formatInstr i = spaced [instrMnemonic i, formatByte i.operand] := by
  rw [spaced_cons_cons, spaced_singleton, formatInstr]

theorem operand_queryOfF (op : BitVec 2) (mask : Byte) : (queryOfF op mask).operand = mask := by
  obtain rfl | rfl | rfl | rfl := SharedCycle.queryOp_cases op <;> rfl

/-- The mnemonic of the query that F selects (30_encoding.md R72). -/
def queryMnemonic (op : BitVec 2) : List Char := instrMnemonic (queryOfF op 0)

theorem instrMnemonic_queryOfF (op : BitVec 2) (mask : Byte) :
    instrMnemonic (queryOfF op mask) = queryMnemonic op := by
  obtain rfl | rfl | rfl | rfl := SharedCycle.queryOp_cases op <;> rfl

theorem isToken_queryMnemonic (op : BitVec 2) : IsToken (queryMnemonic op) := isToken_instrMnemonic _

theorem isToken_tick : IsToken "TICK".toList := isToken_instrMnemonic (.tick 0)

theorem parseQuery_queryMnemonic (op : BitVec 2) : parseQuery (queryMnemonic op) = some op := by
  obtain rfl | rfl | rfl | rfl := SharedCycle.queryOp_cases op <;> rfl

theorem queryMnemonic_ne_tick (op : BitVec 2) : queryMnemonic op ≠ "TICK".toList := by
  obtain rfl | rfl | rfl | rfl := SharedCycle.queryOp_cases op <;> decide

theorem queryMnemonic_ne_semicolon (op : BitVec 2) : queryMnemonic op ≠ [';'] := by
  obtain rfl | rfl | rfl | rfl := SharedCycle.queryOp_cases op <;> decide

theorem formatInstr_queryOfF (op : BitVec 2) (mask : Byte) :
    formatInstr (queryOfF op mask) = spaced [queryMnemonic op, formatByte mask] := by
  rw [formatInstr_eq_spaced, instrMnemonic_queryOfF, operand_queryOfF]

theorem formatInstr_tick (raw : Byte) : formatInstr (.tick raw) = spaced ["TICK".toList, formatByte raw] :=
  formatInstr_eq_spaced (.tick raw)

/-! ## Reading tokens -/

theorem parseLine_spaced {ts : List (List Char)} (h : ∀ cs ∈ ts, IsToken cs) :
    parseLine (spaced ts) = parseTokens ts := by
  rw [parseLine, tokens_spaced h]

theorem parseQueryLine_plain (op : BitVec 2) (mask : Byte) :
    parseQueryLine [queryMnemonic op, formatByte mask] = some (.query op mask none) := by
  simp [parseQueryLine, parseQuery_queryMnemonic, parseByte_formatByte]

theorem parseQueryLine_expected (op : BitVec 2) (mask e : Byte) :
    parseQueryLine [queryMnemonic op, formatByte mask, "->".toList, formatByte e] =
      some (.query op mask (some e)) := by
  simp [parseQueryLine, parseQuery_queryMnemonic, parseByte_formatByte]

theorem parseSingleTick_plain (raw : Byte) : parseSingleTick ["TICK".toList, formatByte raw] = some raw := by
  simp [parseSingleTick, parseByte_formatByte]

/-- A line that begins with a query's mnemonic and has no `;` is that query's line. -/
theorem parseTokens_query {op : BitVec 2} {t : List Char} {ts : List (List Char)} (h : [';'] ∉ t :: ts) :
    parseTokens (queryMnemonic op :: t :: ts) = parseQueryLine (queryMnemonic op :: t :: ts) := by
  have hsemi : (queryMnemonic op :: t :: ts).contains [';'] = false := by
    rw [← Bool.not_eq_true, List.contains_iff_mem, List.mem_cons, not_or]
    exact ⟨(queryMnemonic_ne_semicolon op).symm, h⟩
  rw [parseTokens, if_neg (queryMnemonic_ne_tick op), hsemi, if_neg Bool.false_ne_true]
  simp

/-- A line that begins with a query's mnemonic and has a `;` is a query's line joined to a single tick. -/
theorem parseTokens_shared {op : BitVec 2} {t : List Char} (h : t ≠ [';']) (us : List (List Char)) :
    parseTokens (queryMnemonic op :: t :: [';'] :: us) =
      joinTick (parseQueryLine [queryMnemonic op, t]) (parseSingleTick us) := by
  rw [parseTokens, if_neg (queryMnemonic_ne_tick op)]
  · simp [queryMnemonic_ne_semicolon op, h]
  · simp

/-! ## Reading lines -/

theorem parseLine_query (op : BitVec 2) (mask : Byte) :
    parseLine (formatInstr (queryOfF op mask)) = some (.query op mask none) := by
  rw [formatInstr_queryOfF, parseLine_spaced, parseTokens_query, parseQueryLine_plain]
  · simpa using (formatByte_ne_semicolon mask).symm
  · simp [isToken_queryMnemonic, isToken_formatByte]

theorem parseLine_expected (op : BitVec 2) (mask e : Byte) :
    parseLine (formatInstr (queryOfF op mask) ++ " -> ".toList ++ formatByte e) = some (.query op mask (some e)) := by
  have hline : formatInstr (queryOfF op mask) ++ " -> ".toList ++ formatByte e =
      spaced [queryMnemonic op, formatByte mask, "->".toList, formatByte e] := by
    simp [formatInstr_queryOfF, spaced_cons_cons, spaced_singleton]
  rw [hline, parseLine_spaced, parseTokens_query, parseQueryLine_expected]
  · simp [(formatByte_ne_semicolon _).symm]
  · simp only [List.forall_mem_cons]
    exact ⟨isToken_queryMnemonic op, isToken_formatByte mask, isToken_arrow, isToken_formatByte e, by simp⟩

theorem parseLine_shared (op : BitVec 2) (mask raw : Byte) :
    parseLine (formatInstr (queryOfF op mask) ++ " ; ".toList ++ formatInstr (.tick raw)) =
      some (.shared op mask raw none) := by
  have hline : formatInstr (queryOfF op mask) ++ " ; ".toList ++ formatInstr (.tick raw) =
      spaced [queryMnemonic op, formatByte mask, [';'], "TICK".toList, formatByte raw] := by
    simp [formatInstr_queryOfF, formatInstr_tick, spaced_cons_cons, spaced_singleton]
  rw [hline, parseLine_spaced, parseTokens_shared (formatByte_ne_semicolon mask), parseQueryLine_plain,
    parseSingleTick_plain, joinTick]
  simp only [List.forall_mem_cons]
  exact ⟨isToken_queryMnemonic op, isToken_formatByte mask, isToken_semicolon, isToken_tick, isToken_formatByte raw,
    by simp⟩

theorem parseLine_tick (raw : Byte) : parseLine (formatInstr (.tick raw)) = some (.ticks 1 raw) := by
  rw [formatInstr_tick, parseLine_spaced]
  · rw [parseTokens, if_pos rfl, parseTick, parseSingleTick_plain, Option.map_some]
    all_goals simp
  · simp only [List.forall_mem_cons]
    exact ⟨isToken_tick, isToken_formatByte raw, by simp⟩

theorem parseLine_ticks (raw : Byte) : parseLine ("TICK x3 ".toList ++ formatByte raw) = some (.ticks 3 raw) := by
  have hline : "TICK x3 ".toList ++ formatByte raw = spaced ["TICK".toList, "x3".toList, formatByte raw] := by
    simp [spaced_cons_cons, spaced_singleton]
  rw [hline, parseLine_spaced]
  · rw [parseTokens, if_pos rfl, parseTick, if_pos rfl, parseByte_formatByte]
    · rfl
    all_goals simp
  · simp only [List.forall_mem_cons]
    exact ⟨isToken_tick, isToken_repetition, isToken_formatByte raw, by simp⟩

/-- An operation is a tick or the query of some F (30_encoding.md R72). -/
theorem eq_tick_or_eq_queryOfF (i : Instr) : (∃ raw, i = .tick raw) ∨ ∃ op mask, i = queryOfF op mask := by
  cases i with
  | getPress mask => exact .inr ⟨0b00, mask, rfl⟩
  | getRpt mask => exact .inr ⟨0b01, mask, rfl⟩
  | getShort mask => exact .inr ⟨0b10, mask, rfl⟩
  | getLong mask => exact .inr ⟨0b11, mask, rfl⟩
  | tick raw => exact .inl ⟨raw, rfl⟩

/-- Settles O50: each line is read as the trace line of its tokens, and the events of that line are compared. -/
theorem traceLinesReadBack : Obligations.TraceLinesReadBack := by
  refine ⟨fun i => ?_, parseLine_expected, fun op mask raw => ?_, rfl, fun raw => ?_⟩
  · obtain ⟨raw, rfl⟩ | ⟨op, mask, rfl⟩ := eq_tick_or_eq_queryOfF i
    · rw [parseLine_tick]
      rfl
    · rw [parseLine_query]
      rfl
  · rw [parseLine_shared]
    simp only [parseTrace, parseLine_query, parseLine_tick]
    rfl
  · rw [parseLine_ticks]
    simp only [parseTrace, parseLine_tick]
    rfl

end Sys2Proof.TraceText

namespace Sys2Proof.DebounceFilter

open Sys2Proof.Machine Sys2Proof.Laws Sys2Proof.StepEffect

/-! ## Sequences of ticks -/

theorem ticksRegs_append (c : Config) (xs ys : List Byte) (r : Regs) :
    ticksRegs c (xs ++ ys) r = ticksRegs c ys (ticksRegs c xs r) := by
  induction xs generalizing r with
  | nil => rfl
  | cons x xs ih => exact ih (tickRegs c x r)

theorem ticksRegs_take_succ (c : Config) {raws : List Byte} {k : Nat} (h : k < raws.length) (r : Regs) :
    ticksRegs c (raws.take (k + 1)) r = tickRegs c raws[k] (ticksRegs c (raws.take k) r) := by
  rw [← List.take_append_getElem h, ticksRegs_append]
  rfl

/-! ## One lane of a tick -/

/-- 40_tick_debounce.md R91: no step of S1 to S5 carries anything from one line to another. -/
theorem laneBits_tickRegs (c : Config) (raw : Byte) (r : Regs) (i : Line) :
    laneBits (tickRegs c raw r) i = laneTick (lineAsserted c raw i) (laneBits r i) := by
  simp only [laneBits, laneTick, lineAsserted, tickRegs_keyState, tickRegs_ct1, tickRegs_ct0, tickRegs_keyPress,
    setFlags_bit, pressEdges, BitVec.getLsbD_and, keyStateAfter_bit, commit, ct1After_bit, ct0After_bit, changed_bit]

/-- The first row of 40_tick_debounce.md R92: an agreeing line is set idle and keeps its state. -/
theorem laneTick_of_agrees (l : LaneBits) : laneTick l.s l = { l with c1 := true, c0 := true } := by
  simp [laneTick]

/-- The other rows of 40_tick_debounce.md R92: the counter of a disagreeing line is decremented modulo 4, and the
line toggles when it stood at 0. -/
theorem laneTick_of_disagrees (l : LaneBits) :
    laneTick (!l.s) l =
      { s := l.s ^^ (!l.c1 && !l.c0), c1 := !l.c0 ^^ l.c1, c0 := !l.c0, p := l.p || (!l.s && (!l.c1 && !l.c0)) } := by
  obtain ⟨s, c1, c0, p⟩ := l
  cases s <;> cases c1 <;> cases c0 <;> rfl

/-! ## The explicit filter of a line -/

/-- The explicit filter that the bits of one line stand for (40_tick_debounce.md R98). -/
def filterOfLane (l : LaneBits) : LineFilter :=
  { pressed := l.s, streak := streakOfV (2 * l.c1.toNat + l.c0.toNat) }

theorem filterOfLane_laneBits (r : Regs) (i : Line) : filterOfLane (laneBits r i) = filterOf r i := rfl

theorem filterTick_of_agrees (f : LineFilter) : filterTick f.pressed f = { f with streak := .idle } := by
  simp [filterTick]

/-- The per-line Boolean form and the explicit filter take the same step: one case for each row of
40_tick_debounce.md R92. -/
theorem filterOfLane_laneTick (a : Bool) (l : LaneBits) :
    filterOfLane (laneTick a l) = filterTick a (filterOfLane l) := by
  obtain rfl | hne := eq_or_ne a l.s
  · rw [laneTick_of_agrees]
    exact (filterTick_of_agrees (filterOfLane l)).symm
  · obtain rfl : a = !l.s := Bool.eq_not.2 hne
    rw [laneTick_of_disagrees]
    obtain ⟨s, c1, c0, p⟩ := l
    cases s <;> cases c1 <;> cases c0 <;> rfl

theorem filterOf_tickRegs (c : Config) (raw : Byte) (r : Regs) (i : Line) :
    filterOf (tickRegs c raw r) i = filterTick (lineAsserted c raw i) (filterOf r i) := by
  rw [← filterOfLane_laneBits, laneBits_tickRegs, filterOfLane_laneTick, filterOfLane_laneBits]

theorem filterOf_ticksRegs (c : Config) (raws : List Byte) (r : Regs) (i : Line) :
    filterOf (ticksRegs c raws r) i = filterTicks (raws.map (lineAsserted c · i)) (filterOf r i) := by
  induction raws generalizing r with
  | nil => rfl
  | cons raw raws ih => rw [ticksRegs_cons, ih, filterOf_tickRegs, List.map_cons, filterTicks]

/-- Settles O16: one tick is one sample of the explicit filter (`filterOf_tickRegs`), by induction on the ticks. -/
theorem bitSlicedFilterIsExplicitFilter : Obligations.BitSlicedFilterIsExplicitFilter := by
  refine ⟨filterOf_ticksRegs, fun i => ?_⟩
  simp [filterOf, counterV, streakOfV]

/-- Settles O14, by the lane rule of a tick. -/
theorem tickActsLineByLine : Obligations.TickActsLineByLine := by
  intro raw s
  exact ⟨_, exec_tick raw s, laneBits_tickRegs s.cfg raw s.regs⟩

/-! ## The counter of a line -/

/-- V = 3 - n for the streak's number n of disagreeing samples (10_state.md R25). -/
def streakV : Streak → Nat
  | .idle => 3
  | .one => 2
  | .two => 1
  | .three => 0

theorem counterV_eq_streakV (r : Regs) (i : Line) : counterV r i = streakV (filterOf r i).streak := by
  unfold filterOf counterV
  cases r.ct1.getLsbD i <;> cases r.ct0.getLsbD i <;> rfl

theorem streakV_le_three (k : Streak) : streakV k ≤ 3 := by
  cases k <;> decide

theorem counterV_le_three (r : Regs) (i : Line) : counterV r i ≤ 3 := by
  rw [counterV_eq_streakV]
  exact streakV_le_three _

/-- What one sample does to the explicit filter: it agrees, or it counts, or it commits. -/
theorem filterTick_cases (a : Bool) (f : LineFilter) :
    (a = f.pressed ∧ streakV (filterTick a f).streak = 3 ∧ (filterTick a f).pressed = f.pressed) ∨
    (a ≠ f.pressed ∧ streakV f.streak = streakV (filterTick a f).streak + 1 ∧
      (filterTick a f).pressed = f.pressed) ∨
    (a ≠ f.pressed ∧ streakV f.streak = 0 ∧ streakV (filterTick a f).streak = 3 ∧ (filterTick a f).pressed = a) := by
  obtain rfl | hne := eq_or_ne a f.pressed
  · rw [filterTick_of_agrees]
    exact .inl ⟨rfl, rfl, rfl⟩
  · cases hs : f.streak with
    | idle | one | two => exact .inr (.inl (by simp [filterTick, streakV, hne, hs]))
    | three => exact .inr (.inr (by simp [filterTick, streakV, hne, hs]))

/-- 40_tick_debounce.md R92, the whole table: a line agrees and is set idle, or disagrees and counts one down, or
disagrees at V = 0 and commits. -/
theorem counter_tick_cases (c : Config) (raw : Byte) (r : Regs) (i : Line) :
    (lineAsserted c raw i = r.keyState.getLsbD i ∧ counterV (tickRegs c raw r) i = 3 ∧
      (tickRegs c raw r).keyState.getLsbD i = r.keyState.getLsbD i) ∨
    (lineAsserted c raw i ≠ r.keyState.getLsbD i ∧ counterV r i = counterV (tickRegs c raw r) i + 1 ∧
      (tickRegs c raw r).keyState.getLsbD i = r.keyState.getLsbD i) ∨
    (lineAsserted c raw i ≠ r.keyState.getLsbD i ∧ counterV r i = 0 ∧ counterV (tickRegs c raw r) i = 3 ∧
      (tickRegs c raw r).keyState.getLsbD i = lineAsserted c raw i) := by
  have hkey : (tickRegs c raw r).keyState.getLsbD i = (filterTick (lineAsserted c raw i) (filterOf r i)).pressed := by
    rw [← filterOf_tickRegs]
    rfl
  rw [counterV_eq_streakV, counterV_eq_streakV, filterOf_tickRegs, hkey]
  exact filterTick_cases (lineAsserted c raw i) (filterOf r i)

/-- Settles O15: each row is one case of `counter_tick_cases`. -/
theorem counterFollowsTransitionTable : Obligations.CounterFollowsTransitionTable := by
  intro raw s
  refine ⟨_, exec_tick raw s, fun i => ?_⟩
  rw [complete_regs]
  obtain ⟨hagree, hV, hkey⟩ | ⟨hne, hV, hkey⟩ | ⟨hne, h0, hV, hkey⟩ := counter_tick_cases s.cfg raw s.regs i
  · exact ⟨fun _ => ⟨hV, hkey⟩, fun hne => absurd hagree hne, counterV_le_three _ i⟩
  · refine ⟨fun hagree => absurd hagree hne, fun _ => ?_, counterV_le_three _ i⟩
    exact ⟨fun h => ⟨by omega, hkey⟩, fun h => ⟨by omega, hkey⟩, fun h => ⟨by omega, hkey⟩, fun h => by omega⟩
  · refine ⟨fun hagree => absurd hagree hne, fun _ => ?_, counterV_le_three _ i⟩
    exact ⟨fun h => by omega, fun h => by omega, fun h => by omega, fun _ => ⟨hV, hkey.trans (Bool.eq_not.2 hne)⟩⟩

/-! ## The confirm window -/

/-- Line `i` has the state and the press event it had before. -/
def LineUnchanged (i : Line) (r r' : Regs) : Prop :=
  r'.keyState.getLsbD i = r.keyState.getLsbD i ∧ r'.keyPress.getLsbD i = r.keyPress.getLsbD i

theorem LineUnchanged.trans {i : Line} {r r' r'' : Regs} (h : LineUnchanged i r r') (h' : LineUnchanged i r' r'') :
    LineUnchanged i r r'' :=
  ⟨h'.1.trans h.1, h'.2.trans h.2⟩

/-- A tick at which a line does not toggle sets no press event for it (41_tick_press_repeat.md R105). -/
theorem lineUnchanged_tickRegs {c : Config} {raw : Byte} {r : Regs} {i : Line}
    (h : (tickRegs c raw r).keyState.getLsbD i = r.keyState.getLsbD i) : LineUnchanged i r (tickRegs c raw r) := by
  refine ⟨h, ?_⟩
  rw [SharedCycle.tickRegs_keyPress_bit, h, Bool.not_and_self, Bool.or_false]

theorem tick_of_agrees {c : Config} {raw : Byte} {r : Regs} {i : Line}
    (h : lineAsserted c raw i = r.keyState.getLsbD i) :
    LineUnchanged i r (tickRegs c raw r) ∧ counterV (tickRegs c raw r) i = 3 := by
  obtain ⟨-, hV, hkey⟩ | ⟨hne, -⟩ | ⟨hne, -⟩ := counter_tick_cases c raw r i
  · exact ⟨lineUnchanged_tickRegs hkey, hV⟩
  · exact absurd h hne
  · exact absurd h hne

theorem tick_of_disagrees_of_pos {c : Config} {raw : Byte} {r : Regs} {i : Line}
    (h : lineAsserted c raw i = !r.keyState.getLsbD i) (hpos : 0 < counterV r i) :
    LineUnchanged i r (tickRegs c raw r) ∧ counterV r i = counterV (tickRegs c raw r) i + 1 := by
  obtain ⟨hagree, -⟩ | ⟨-, hV, hkey⟩ | ⟨-, h0, -⟩ := counter_tick_cases c raw r i
  · exact absurd hagree (Bool.eq_not.1 h)
  · exact ⟨lineUnchanged_tickRegs hkey, hV⟩
  · omega

theorem tick_of_disagrees_of_zero {c : Config} {raw : Byte} {r : Regs} {i : Line}
    (h : lineAsserted c raw i = !r.keyState.getLsbD i) (h0 : counterV r i = 0) :
    (tickRegs c raw r).keyState.getLsbD i = !r.keyState.getLsbD i ∧ counterV (tickRegs c raw r) i = 3 := by
  obtain ⟨hagree, -⟩ | ⟨-, hV, -⟩ | ⟨-, -, hV, hkey⟩ := counter_tick_cases c raw r i
  · exact absurd hagree (Bool.eq_not.1 h)
  · omega
  · exact ⟨hkey.trans h, hV⟩

/-- As many disagreeing samples as the counter can still count change nothing but the counter. -/
theorem ticks_of_disagrees {c : Config} {raws : List Byte} {r : Regs} {i : Line}
    (h : ∀ x ∈ raws, lineAsserted c x i = !r.keyState.getLsbD i) (hlen : raws.length ≤ counterV r i) :
    LineUnchanged i r (ticksRegs c raws r) ∧ counterV r i = counterV (ticksRegs c raws r) i + raws.length := by
  induction raws generalizing r with
  | nil => exact ⟨⟨rfl, rfl⟩, rfl⟩
  | cons raw raws ih =>
    rw [List.forall_mem_cons] at h
    rw [List.length_cons] at hlen ⊢
    obtain ⟨hfirst, hV⟩ := tick_of_disagrees_of_pos h.1 (by omega)
    obtain ⟨hrest, hV'⟩ := ih (r := tickRegs c raw r) (by rw [hfirst.1]; exact h.2) (by omega)
    rw [ticksRegs_cons]
    exact ⟨hfirst.trans hrest, by omega⟩

/-- 40_tick_debounce.md R93 (a): the disagreeing sample after as many as the counter can count commits. -/
theorem commits_after_disagrees {c : Config} {raws : List Byte} {x : Byte} {r : Regs} {i : Line}
    (h : ∀ y ∈ raws, lineAsserted c y i = !r.keyState.getLsbD i) (hlen : raws.length = counterV r i)
    (hx : lineAsserted c x i = !r.keyState.getLsbD i) :
    (ticksRegs c (raws ++ [x]) r).keyState.getLsbD i = !r.keyState.getLsbD i ∧
      counterV (ticksRegs c (raws ++ [x]) r) i = 3 := by
  obtain ⟨⟨hkey, -⟩, hV⟩ := ticks_of_disagrees h hlen.le
  rw [← hkey] at hx ⊢
  rw [ticksRegs_append]
  exact tick_of_disagrees_of_zero hx (by omega)

/-- 40_tick_debounce.md R93 (b): an agreeing sample before the counter is through rejects the disagreement. -/
theorem rejected_of_disagrees_of_agrees {c : Config} {raws : List Byte} {x : Byte} {r : Regs} {i : Line}
    (h : ∀ y ∈ raws, lineAsserted c y i = !r.keyState.getLsbD i) (hlen : raws.length ≤ counterV r i)
    (hx : lineAsserted c x i = r.keyState.getLsbD i) :
    (∀ k ≤ (raws ++ [x]).length, LineUnchanged i r (ticksRegs c ((raws ++ [x]).take k) r)) ∧
      counterV (ticksRegs c (raws ++ [x]) r) i = 3 := by
  obtain ⟨hburst, -⟩ := ticks_of_disagrees h hlen
  rw [← hburst.1] at hx
  obtain ⟨hlast, hV⟩ := tick_of_agrees hx
  have hall : ticksRegs c (raws ++ [x]) r = tickRegs c x (ticksRegs c raws r) := ticksRegs_append c raws [x] r
  rw [hall]
  refine ⟨fun k hk => ?_, hV⟩
  obtain hlt | hge := Nat.lt_or_ge raws.length k
  · rw [List.take_of_length_le (by simpa using hlt), hall]
    exact hburst.trans hlast
  · rw [List.take_append_of_le_length hge]
    exact (ticks_of_disagrees (fun y hy => h y (List.mem_of_mem_take hy))
      (by rw [List.length_take]; omega)).1

/-- Settles O17, from V = 3: up to three disagreeing samples only count, a fourth commits, an agreeing one rejects. -/
theorem confirmWindowIsFourSamples : Obligations.ConfirmWindowIsFourSamples := by
  intro c r i x0 x1 x2 x3 hV h0
  refine ⟨fun h1 h2 h3 => ?_, ?_⟩
  · have hkeeps : ∀ raws : List Byte, (∀ x ∈ raws, lineAsserted c x i = !r.keyState.getLsbD i) → raws.length ≤ 3 →
        (ticksRegs c raws r).keyState.getLsbD i = r.keyState.getLsbD i :=
      fun raws h hlen => (ticks_of_disagrees h (hlen.trans hV.ge)).1.1
    exact ⟨hkeeps [x0] (by simp [h0]) (by simp), hkeeps [x0, x1] (by simp [h0, h1]) (by simp),
      hkeeps [x0, x1, x2] (by simp [h0, h1, h2]) (by simp),
      commits_after_disagrees (raws := [x0, x1, x2]) (by simp [h0, h1, h2]) hV.symm h3⟩
  · rintro raws (rfl | ⟨rfl, h1⟩ | ⟨rfl, h1, h2⟩) hlast
    · exact rejected_of_disagrees_of_agrees (raws := [x0]) (by simp [h0]) (by simp [hV]) (by simpa using hlast)
    · exact rejected_of_disagrees_of_agrees (raws := [x0, x1]) (by simp [h0, h1]) (by simp [hV])
        (by simpa using hlast)
    · exact rejected_of_disagrees_of_agrees (raws := [x0, x1, x2]) (by simp [h0, h1, h2]) (by simp [hV])
        (by simpa using hlast)

/-! ## The rate bound -/

/-- A line that toggles at a tick stood at V = 0 before it and is idle after it (40_tick_debounce.md R92). -/
theorem counterV_of_toggles {c : Config} {raw : Byte} {r : Regs} {i : Line}
    (h : (tickRegs c raw r).keyState.getLsbD i ≠ r.keyState.getLsbD i) :
    counterV r i = 0 ∧ counterV (tickRegs c raw r) i = 3 := by
  obtain ⟨-, -, hkey⟩ | ⟨-, -, hkey⟩ | ⟨-, h0, hV, -⟩ := counter_tick_cases c raw r i
  · exact absurd hkey h
  · exact absurd hkey h
  · exact ⟨h0, hV⟩

/-- A tick takes at most one from a counter. -/
theorem counterV_le_tickRegs (c : Config) (raw : Byte) (r : Regs) (i : Line) :
    counterV r i ≤ counterV (tickRegs c raw r) i + 1 := by
  have hle := counterV_le_three r i
  obtain ⟨-, hV, -⟩ | ⟨-, hV, -⟩ | ⟨-, -, hV, -⟩ := counter_tick_cases c raw r i <;> omega

theorem counterV_le_ticksRegs (c : Config) (raws : List Byte) (r : Regs) (i : Line) :
    counterV r i ≤ counterV (ticksRegs c raws r) i + raws.length := by
  induction raws generalizing r with
  | nil => exact le_rfl
  | cons raw raws ih =>
    have hfirst := counterV_le_tickRegs c raw r i
    have hrest := ih (tickRegs c raw r)
    rw [ticksRegs_cons, List.length_cons]
    omega

/-- Settles O18: a toggle leaves V = 3, at most two ticks lie between tick `j` and tick `k`, and each takes at most one
from the counter, so V is not 0 before tick `k`. -/
theorem oneToggleInFourTicks : Obligations.OneToggleInFourTicks := by
  intro c r i raws j k hlen hjk hk htoggle
  by_contra hagain
  rw [ticksRegs_take_succ c (hjk.trans hk)] at htoggle
  rw [ticksRegs_take_succ c hk] at hagain
  have hidle := (counterV_of_toggles htoggle).2
  rw [← ticksRegs_take_succ c (hjk.trans hk)] at hidle
  have hzero := (counterV_of_toggles hagain).1
  have hsplit : raws.take k = raws.take (j + 1) ++ (raws.take k).drop (j + 1) := by
    conv_lhs => rw [← List.take_append_drop (j + 1) (raws.take k), List.take_take, Nat.min_eq_left hjk]
  have hbetween := counterV_le_ticksRegs c ((raws.take k).drop (j + 1)) (ticksRegs c (raws.take (j + 1)) r) i
  rw [← ticksRegs_append, ← hsplit, hidle, hzero, List.length_drop, List.length_take] at hbetween
  omega

/-! ## The six steps of a tick -/

theorem setFlags_repeatEvents (c : Config) (flags ks n : Byte) :
    setFlags flags (repeatEvents c ks n) = if n = 0 then flags ||| (ks &&& c.repeatMask) else flags := by
  unfold repeatEvents
  split
  · rfl
  · exact BitVec.or_zero

/-- Settles O13: the definitions of S1 to S6 are the lines of the pseudocode, but for the place of the test in S6. -/
theorem tickPerformsSixSteps : Obligations.TickPerformsSixSteps := by
  intro raw s
  rw [exec_tick, tickRegs, setFlags_repeatEvents]
  rfl

/-! ## The lines that commit -/

/-- 40_tick_debounce.md R89: only a line that disagrees commits. -/
theorem disagrees_of_commit {c : Config} {raw : Byte} {r : Regs} {i : Line} (h : (commit c raw r).getLsbD i = true) :
    r.keyState.getLsbD i = !lineAsserted c raw i := by
  simp only [commit_bit, changed_bit, Bool.and_eq_true, bne_iff_ne] at h
  exact Bool.eq_not.2 h.1.1

/-- Settles O19: S4 toggles the committed lines, and those disagreed. -/
theorem committedLinesTakeAssertedLevel : Obligations.CommittedLinesTakeAssertedLevel := by
  intro raw s
  refine ⟨_, exec_tick raw s, rfl, fun i => ?_⟩
  rw [complete_regs, tickRegs_keyState, keyStateAfter_bit]
  refine ⟨fun hcommit => ?_, fun hkeeps => ?_⟩
  · rw [hcommit, disagrees_of_commit hcommit]
    simp
  · rw [hkeeps, Bool.xor_false]

/-! ## A tick without disagreement -/

theorem asserted_releasedLevel (c : Config) : asserted c (releasedLevel c) = 0 := by
  unfold asserted releasedLevel
  cases c.activeLow <;> rfl

section AllAgree

variable {c : Config} {raw : Byte} {r : Regs} (h : changed c raw r = 0)

include h

theorem ct0After_of_all_agree : ct0After c raw r = 0xFF := by
  simp [ct0After, nextCt0, h]

theorem ct1After_of_all_agree : ct1After c raw r = 0xFF := by
  simp [ct1After, nextCt1, ct0After_of_all_agree h, h]

theorem commit_of_all_agree : commit c raw r = 0 := by
  simp [commit, h]

theorem keyStateAfter_of_all_agree : keyStateAfter c raw r = r.keyState := by
  simp [keyStateAfter, commit_of_all_agree h]

theorem keyPress_of_all_agree : (tickRegs c raw r).keyPress = r.keyPress := by
  simp [commit_of_all_agree h, pressEdges, setFlags]

end AllAgree

/-- With no line pressed a firing of the countdown sets no repeat event (41_tick_press_repeat.md R107). -/
theorem setFlags_repeatEvents_of_none_pressed (c : Config) (flags n : Byte) :
    setFlags flags (repeatEvents c 0 n) = flags := by
  simp [setFlags_repeatEvents]

/-- Settles O20: with no line pressed every line agrees with the released level. -/
theorem releasedTickOnlyIdlesCounters : Obligations.ReleasedTickOnlyIdlesCounters := by
  intro s hnone
  have hagree : changed s.cfg (releasedLevel s.cfg) s.regs = 0 := by
    rw [changed, hnone, asserted_releasedLevel]
    rfl
  have hkey := keyStateAfter_of_all_agree hagree
  refine ⟨_, exec_tick _ s, hkey, keyPress_of_all_agree hagree, ?_, ct0After_of_all_agree hagree,
    ct1After_of_all_agree hagree⟩
  rw [complete_regs, tickRegs_keyRpt, hkey, hnone]
  exact setFlags_repeatEvents_of_none_pressed _ _ _

end Sys2Proof.DebounceFilter

namespace Sys2Proof.RepeatTimer

open Sys2Proof.Machine Sys2Proof.Laws Sys2Proof.StepEffect Sys2Proof.TickFacts

/-! ## The countdown after one tick -/

theorem tickRegs_rpt_of_fires {c : Config} {raw : Byte} {r : Regs} (h : fires c raw r = true) :
    (tickRegs c raw r).rpt = c.repeatNext := by
  rw [tickRegs_rpt, rptAfter, if_pos ((fires_eq_true_iff c raw r).1 h)]

/-- A held tick without a firing only decrements `rpt` (41_tick_press_repeat.md R108). -/
theorem tickRegs_rpt_of_held {c : Config} {raw : Byte} {r : Regs} (h : eligiblePressed c (tickRegs c raw r) = true)
    (hf : fires c raw r = false) : (tickRegs c raw r).rpt = r.rpt - 1 := by
  rw [tickRegs_rpt_of_not_fires hf, countdown_of_eligiblePressed h]

/-- A tick that leaves no eligible line pressed reloads `REPEAT_START` and decrements it (41_tick_press_repeat.md R106);
from 1 it reaches 0 and is reloaded once more. -/
theorem tickRegs_rpt_of_released {c : Config} {raw : Byte} {r : Regs}
    (h : eligiblePressed c (tickRegs c raw r) = false) :
    (tickRegs c raw r).rpt = if c.repeatStart = 1 then c.repeatNext else c.repeatStart - 1 := by
  rw [tickRegs_rpt, rptAfter, countdown_of_not_eligiblePressed h]
  simp only [sub_eq_zero]

theorem tickRegs_rpt_toNat_of_released {c : Config} {raw : Byte} {r : Regs} (hstart : 2 ≤ c.repeatStart.toNat)
    (h : eligiblePressed c (tickRegs c raw r) = false) :
    (tickRegs c raw r).rpt.toNat = c.repeatStart.toNat - 1 := by
  have hne : c.repeatStart ≠ 1 := by bv_omega
  rw [tickRegs_rpt_of_released h, if_neg hne]
  bv_omega

/-! ## The repeat events of one tick -/

theorem tickRegs_keyRpt_eq (c : Config) (raw : Byte) (r : Regs) :
    (tickRegs c raw r).keyRpt =
      r.keyRpt ||| (if fires c raw r = true then (tickRegs c raw r).keyState &&& c.repeatMask else 0) := by
  simp only [tickRegs_keyRpt, setFlags, repeatEvents, eligible, fires_eq_true_iff, tickRegs_keyState]

/-- With no eligible line pressed a firing has no line to set an event for (41_tick_press_repeat.md R107). -/
theorem tickRegs_keyRpt_of_released {c : Config} {raw : Byte} {r : Regs}
    (h : eligiblePressed c (tickRegs c raw r) = false) : (tickRegs c raw r).keyRpt = r.keyRpt := by
  have hnone : (tickRegs c raw r).keyState &&& c.repeatMask = 0 := by
    simpa only [eligiblePressed, eligible, bne_eq_false_iff_eq] using h
  rw [tickRegs_keyRpt_eq, hnone, ite_self]
  exact BitVec.or_zero

/-! ## Intervals in ticks -/

/-- An interval counts the firing tick too. -/
theorem intervalTicks_eq (v : Byte) : intervalTicks v = ticksToFire v + 1 := by
  unfold intervalTicks ticksToFire
  split <;> bv_omega

theorem intervalTicks_of_pos {v : Byte} (h : 1 ≤ v.toNat) : intervalTicks v = v.toNat := by
  have hne : v ≠ 0 := by bv_omega
  exact if_neg hne

theorem fires_iff_intervalTicks_eq_one {c : Config} {raw : Byte} {r : Regs}
    (h : eligiblePressed c (tickRegs c raw r) = true) : fires c raw r = true ↔ intervalTicks r.rpt = 1 := by
  rw [fires_iff_ticksToFire_eq_zero h, intervalTicks_eq, Nat.add_eq_right]

theorem intervalTicks_tickRegs {c : Config} {raw : Byte} {r : Regs}
    (h : eligiblePressed c (tickRegs c raw r) = true) (hf : fires c raw r = false) :
    intervalTicks r.rpt = intervalTicks (tickRegs c raw r).rpt + 1 := by
  rw [intervalTicks_eq, intervalTicks_eq, ticksToFire_tickRegs h hf]

/-- Counting periods from their start or from the first one's end is the same, past the start. -/
theorem le_and_sub_mod_eq_zero_iff {n p : Nat} (hn : 0 < n) : p ≤ n ∧ (n - p) % p = 0 ↔ n % p = 0 := by
  constructor
  · rintro ⟨hle, hmod⟩
    rwa [Nat.mod_eq_sub_mod hle]
  · intro hmod
    have hle : p ≤ n := Nat.le_of_dvd hn (Nat.dvd_of_mod_eq_zero hmod)
    exact ⟨hle, by rwa [← Nat.mod_eq_sub_mod hle]⟩

/-! ## Sequences of ticks -/

theorem firesAt_cons_zero (c : Config) (raw : Byte) (raws : List Byte) (r : Regs) :
    firesAt c (raw :: raws) 0 r = fires c raw r := rfl

theorem firesAt_cons_succ (c : Config) (raw : Byte) (raws : List Byte) (k : Nat) (r : Regs) :
    firesAt c (raw :: raws) (k + 1) r = firesAt c raws k (tickRegs c raw r) := rfl

theorem firesAt_eq_fires (c : Config) {raws : List Byte} {k : Nat} (h : k < raws.length) (r : Regs) :
    firesAt c raws k r = fires c raws[k] (ticksRegs c (raws.take k) r) := by
  induction raws generalizing k r with
  | nil => cases h
  | cons raw raws ih =>
    cases k with
    | zero => rfl
    | succ k => exact ih (Nat.lt_of_succ_lt_succ h) (tickRegs c raw r)

theorem heldThroughout_cons (c : Config) (raw : Byte) (raws : List Byte) (r : Regs) :
    heldThroughout c (raw :: raws) r = true ↔
      eligiblePressed c (tickRegs c raw r) = true ∧ heldThroughout c raws (tickRegs c raw r) = true :=
  Bool.and_eq_true_iff

theorem lineHeldThroughout_cons (c : Config) (i : Line) (raw : Byte) (raws : List Byte) (r : Regs) :
    lineHeldThroughout c i (raw :: raws) r = true ↔
      (tickRegs c raw r).keyState.getLsbD i = true ∧ lineHeldThroughout c i raws (tickRegs c raw r) = true :=
  Bool.and_eq_true_iff

theorem ticksRegs_keyRpt_succ (c : Config) {raws : List Byte} {k : Nat} (h : k < raws.length) (r : Regs) :
    (ticksRegs c (raws.take (k + 1)) r).keyRpt =
      (ticksRegs c (raws.take k) r).keyRpt |||
        (if firesAt c raws k r = true then
          (ticksRegs c (raws.take (k + 1)) r).keyState &&& c.repeatMask else 0) := by
  rw [DebounceFilter.ticksRegs_take_succ c h, firesAt_eq_fires c h]
  exact tickRegs_keyRpt_eq c _ _

/-! ## The firings of a held timer -/

/-- Settles O25, by induction on the ticks: a firing starts a new period of `REPEAT_NEXT`, any other held tick brings
the first firing one tick nearer. -/
theorem heldTimerFiringTicks : Obligations.HeldTimerFiringTicks := by
  intro c raws
  induction raws with
  | nil => intro r _ k hk; cases hk
  | cons raw raws ih =>
    intro r hheld k hk
    obtain ⟨hpressed, hrest⟩ := (heldThroughout_cons c raw raws r).1 hheld
    have hone := fires_iff_intervalTicks_eq_one hpressed
    cases k with
    | zero =>
      have hpos := intervalTicks_eq r.rpt
      rw [firesAt_cons_zero, hone]
      constructor
      · intro h
        simp [h]
      · rintro ⟨hle, -⟩
        omega
    | succ k =>
      rw [firesAt_cons_succ, ih _ hrest k (Nat.lt_of_succ_lt_succ hk)]
      cases hf : fires c raw r with
      | true =>
        rw [tickRegs_rpt_of_fires hf, hone.1 hf, le_and_sub_mod_eq_zero_iff k.succ_pos]
        simp
      | false =>
        rw [intervalTicks_tickRegs hpressed hf, Nat.add_le_add_iff_right, Nat.add_sub_add_right]

/-- Settles O26: the tick L leaves `REPEAT_START` - 1 in `rpt`, and the firings are those of a held timer. -/
theorem repeatFiresAfterStartThenEveryNext : Obligations.RepeatFiresAfterStartThenEveryNext := by
  intro c rawL r raws hstart hnext hreleased hheld
  have hrpt := tickRegs_rpt_toNat_of_released hstart hreleased
  refine ⟨hrpt, fun k hk => ⟨?_, ticksRegs_keyRpt_succ c hk _⟩⟩
  rw [heldTimerFiringTicks c raws _ hheld k hk, intervalTicks_of_pos hnext, intervalTicks_of_pos (by omega), hrpt]

/-! ## One tick: edges, countdown, events -/

/-- Settles O21, by the press rule of a tick. -/
theorem pressEventsAreRisingEdges : Obligations.PressEventsAreRisingEdges := by
  intro raw s
  exact ⟨_, exec_tick raw s, SharedCycle.tickRegs_keyPress_bit s.cfg raw s.regs⟩

theorem countdownStart_toNat (c : Config) (ks rpt : Byte) :
    (countdownStart c ks rpt).toNat = if ks &&& c.repeatMask = 0 then c.repeatStart.toNat else rpt.toNat :=
  apply_ite BitVec.toNat _ _ _

theorem countdown_eq_zero_iff (c : Config) (ks rpt : Byte) :
    countdown c ks rpt = 0 ↔ (countdownStart c ks rpt).toNat = 1 := by
  rw [countdown]
  bv_omega

/-- The decrement modulo 256 (41_tick_press_repeat.md R109). -/
theorem countdown_toNat_eq_ite (c : Config) (ks rpt : Byte) :
    (countdown c ks rpt).toNat =
      if (countdownStart c ks rpt).toNat = 0 then 255 else (countdownStart c ks rpt).toNat - 1 := by
  have hlt := (countdownStart c ks rpt).isLt
  rw [countdown_toNat]
  split <;> omega

theorem rptAfter_toNat (c : Config) (ks rpt : Byte) :
    (rptAfter c ks rpt).toNat =
      if (countdown c ks rpt).toNat = 0 then c.repeatNext.toNat else (countdown c ks rpt).toNat := by
  have hzero : countdown c ks rpt = 0 ↔ (countdown c ks rpt).toNat = 0 := BitVec.toNat_inj.symm
  rw [rptAfter, apply_ite BitVec.toNat]
  simp only [hzero]

/-- Settles O22: r0 is `countdownStart` and r1 is `countdown`, read as numbers. -/
theorem countdownReloadsAndDecrements : Obligations.CountdownReloadsAndDecrements := by
  intro raw s
  refine ⟨_, exec_tick raw s, fun r0 r1 hr0 hr1 => ?_⟩
  rw [complete_regs] at hr0 ⊢
  rw [tickRegs_keyState, ← countdownStart_toNat] at hr0
  rw [hr0, ← countdown_toNat_eq_ite] at hr1
  rw [hr0, hr1, tickRegs_rpt, fires_eq_true_iff]
  exact ⟨rptAfter_toNat _ _ _, countdown_eq_zero_iff _ _ _⟩

/-- Settles O23, by the repeat rule of a tick. -/
theorem repeatEventsForPressedEligibleLines : Obligations.RepeatEventsForPressedEligibleLines := by
  intro raw s
  exact ⟨_, exec_tick raw s, SharedCycle.tickRegs_keyRpt_bit s.cfg raw s.regs⟩

/-- Settles O24, by the reload rule of a tick. -/
theorem restingCountdownIsStartMinusOne : Obligations.RestingCountdownIsStartMinusOne :=
  fun _ _ _ => tickRegs_rpt_toNat_of_released

/-! ## The parameter corner cases -/

theorem firstFireAt_of_rpt {c : Config} {raws : List Byte} {r : Regs} {v : Byte} (hrpt : r.rpt = v)
    (h : heldThroughout c raws r = true) : FirstFireAt c raws (ticksToFire v) r :=
  hrpt ▸ firstFireAt_of_heldThroughout h

theorem eligiblePressed_of_repeatMask_zero {c : Config} (h : c.repeatMask = 0) (r : Regs) :
    eligiblePressed c r = false := by
  simp [eligiblePressed, eligible, h]

theorem ticksRegs_keyRpt_of_repeatMask_zero {c : Config} (h : c.repeatMask = 0) (raws : List Byte) (r : Regs) :
    (ticksRegs c raws r).keyRpt = r.keyRpt := by
  induction raws generalizing r with
  | nil => rfl
  | cons raw raws ih =>
    rw [ticksRegs_cons, ih]
    exact tickRegs_keyRpt_of_released (eligiblePressed_of_repeatMask_zero h _)

theorem keyRpt_eq_zero_of_repeatMask_zero {s : State} (hmask : s.cfg.repeatMask = 0) (h : RepeatsEligible s) :
    s.regs.keyRpt = 0 := by
  rw [RepeatsEligible, hmask] at h
  exact (BitVec.and_allOnes).symm.trans h

/-- With `REPEAT_NEXT` = 1 every held tick after a firing fires (41_tick_press_repeat.md R112 (e)). -/
theorem firesAt_of_repeatNext_one {c : Config} {raws : List Byte} {r : Regs} (hnext : c.repeatNext = 1)
    (hrpt : r.rpt = c.repeatNext) (h : heldThroughout c raws r = true) {k : Nat} (hk : k < raws.length) :
    firesAt c raws k r = true := by
  have hinterval : intervalTicks (1 : Byte) = 1 := rfl
  rw [heldTimerFiringTicks c raws r h k hk, hrpt, hnext, hinterval]
  exact ⟨by omega, Nat.mod_one _⟩

/-- Settles O27: each timing is the run of a held timer from the value that the tick before left in `rpt`, and with an
empty `REPEAT_MASK` nothing is eligible. -/
theorem parameterCornerCases : Obligations.ParameterCornerCases := by
  refine ⟨fun c rawL r hreleased => ?_, fun c raw r raws hfires hheld => ?_, fun c raws r hmask => ?_,
    fun s mask hmask heligible => ?_⟩
  · have hrpt := tickRegs_rpt_of_released hreleased
    refine ⟨fun hstart => ?_, fun hstart => ?_, fun hstart => ?_⟩
    · rw [if_pos hstart] at hrpt
      refine ⟨tickRegs_keyRpt_of_released hreleased, hrpt, fun raws hheld => ?_⟩
      rw [intervalTicks_eq, Nat.add_sub_cancel]
      exact firstFireAt_of_rpt hrpt hheld
    · rw [hstart, if_neg (by decide)] at hrpt
      exact ⟨hrpt, fun raws hheld => firstFireAt_of_rpt hrpt hheld⟩
    · rw [hstart, if_neg (by decide)] at hrpt
      exact fun raws hheld => firstFireAt_of_rpt hrpt hheld
  · have hrpt := tickRegs_rpt_of_fires hfires
    exact ⟨fun hnext => firstFireAt_of_rpt (hrpt.trans hnext) hheld,
      fun hnext k hk => firesAt_of_repeatNext_one hnext hrpt hheld hk⟩
  · exact ⟨fun k _ => eligiblePressed_of_repeatMask_zero hmask _, ticksRegs_keyRpt_of_repeatMask_zero hmask raws r⟩
  · have hnone := keyRpt_eq_zero_of_repeatMask_zero hmask heligible
    refine ⟨⟨_, exec_getRpt mask s, ?_⟩, ⟨_, exec_getLong mask s, ?_⟩⟩
    · simp [hnone]
    · simp [repeatedMask, hnone]

/-! ## The long press of one line -/

/-- A pressed eligible line keeps the countdown running for all (41_tick_press_repeat.md R108). -/
theorem eligiblePressed_of_line {c : Config} {r : Regs} {i : Line} (hmask : c.repeatMask.getLsbD i = true)
    (h : r.keyState.getLsbD i = true) : eligiblePressed c r = true := by
  rw [eligiblePressed, bne_iff_ne]
  intro hzero
  have hbit := congrArg (fun v : Byte => v.getLsbD i) hzero
  simp only [eligible, BitVec.getLsbD_and, h, hmask, BitVec.ofNat_eq_ofNat, BitVec.getLsbD_zero, Bool.and_self] at hbit
  cases hbit

theorem heldThroughout_of_lineHeldThroughout {c : Config} {i : Line} (hmask : c.repeatMask.getLsbD i = true)
    {raws : List Byte} {r : Regs} (h : lineHeldThroughout c i raws r = true) : heldThroughout c raws r = true := by
  induction raws generalizing r with
  | nil => rfl
  | cons raw raws ih =>
    obtain ⟨hline, hrest⟩ := (lineHeldThroughout_cons c i raw raws r).1 h
    exact (heldThroughout_cons c raw raws r).2 ⟨eligiblePressed_of_line hmask hline, ih hrest⟩

theorem pressed_of_lineHeldThroughout {c : Config} {i : Line} {raws : List Byte} {r : Regs}
    (h : lineHeldThroughout c i raws r = true) {k : Nat} (hk : k < raws.length) :
    (ticksRegs c (raws.take (k + 1)) r).keyState.getLsbD i = true := by
  induction raws generalizing k r with
  | nil => cases hk
  | cons raw raws ih =>
    obtain ⟨hline, hrest⟩ := (lineHeldThroughout_cons c i raw raws r).1 h
    cases k with
    | zero => exact hline
    | succ k => exact ih hrest (Nat.lt_of_succ_lt_succ hk)

/-- The repeat event of a held eligible line is set at each firing and stays set. -/
theorem keyRpt_bit_succ_of_lineHeldThroughout {c : Config} {i : Line} (hmask : c.repeatMask.getLsbD i = true)
    {raws : List Byte} {r : Regs} (h : lineHeldThroughout c i raws r = true) {k : Nat} (hk : k < raws.length) :
    (ticksRegs c (raws.take (k + 1)) r).keyRpt.getLsbD i =
      ((ticksRegs c (raws.take k) r).keyRpt.getLsbD i || firesAt c raws k r) := by
  have hpressed := pressed_of_lineHeldThroughout h hk
  rw [DebounceFilter.ticksRegs_take_succ c hk] at hpressed ⊢
  rw [SharedCycle.tickRegs_keyRpt_bit, hpressed, hmask, firesAt_eq_fires c hk, Bool.and_true, Bool.and_true]

/-- A held eligible line with no repeat event pending gets one at the first firing. -/
theorem keyRpt_bit_iff_of_firstFireAt {c : Config} {i : Line} (hmask : c.repeatMask.getLsbD i = true)
    {raws : List Byte} {r : Regs} (hnone : r.keyRpt.getLsbD i = false)
    (h : lineHeldThroughout c i raws r = true) {m : Nat} (hfirst : FirstFireAt c raws m r) {n : Nat}
    (hn : n ≤ raws.length) : (ticksRegs c (raws.take n) r).keyRpt.getLsbD i = true ↔ m < n := by
  obtain ⟨hbefore, hat⟩ := hfirst
  induction n with
  | zero =>
    rw [List.take_zero, ticksRegs_nil, hnone]
    simp
  | succ n ih =>
    rw [keyRpt_bit_succ_of_lineHeldThroughout hmask h hn, Bool.or_eq_true, ih (Nat.le_of_succ_le hn)]
    obtain hlt | rfl | hgt := Nat.lt_trichotomy n m
    · rw [hbefore n hlt]
      simp only [Bool.false_eq_true, or_false]
      omega
    · simp [hat hn]
    · simp [hgt, hgt.le]

/-- Settles O28: the held line keeps the timer running, so its event comes with the first firing. -/
theorem longPressBoundary : Obligations.LongPressBoundary := by
  intro c rawL r i raws hstart hmask hreleased hnone hline n hn
  have hrpt := tickRegs_rpt_toNat_of_released hstart hreleased
  have hfirst := firstFireAt_of_heldThroughout (heldThroughout_of_lineHeldThroughout hmask hline)
  have hinterval := intervalTicks_eq (tickRegs c rawL r).rpt
  rw [intervalTicks_of_pos (by omega)] at hinterval
  rw [keyRpt_bit_iff_of_firstFireAt hmask hnone hline hfirst hn]
  omega

/-! ## The shared countdown -/

/-- Settles O29, by induction on the ticks: each held tick without a firing takes one from `rpt`. -/
theorem sharedCountdownRunsOnWhileHeld : Obligations.SharedCountdownRunsOnWhileHeld := by
  intro c raws
  induction raws with
  | nil => intro r _ _; simp
  | cons raw raws ih =>
    intro r hheld hnofire
    obtain ⟨hpressed, hrest⟩ := (heldThroughout_cons c raw raws r).1 hheld
    have hfirst : fires c raw r = false := hnofire 0 (Nat.succ_pos _)
    rw [ticksRegs_cons, ih _ hrest fun k hk => hnofire (k + 1) (Nat.succ_lt_succ hk),
      tickRegs_rpt_of_held hpressed hfirst, List.length_cons, BitVec.ofNat_add]
    bv_omega

end Sys2Proof.RepeatTimer

namespace Sys2Proof.QueryEvents

open Sys2Proof.Machine Sys2Proof.Laws Sys2Proof.StepEffect

/-! ## Clearing event flags -/

theorem clearFlags_clearFlags (flags a b : Byte) : clearFlags (clearFlags flags a) b = clearFlags flags (a ||| b) := by
  simp only [clearFlags, BitVec.not_or, BitVec.and_assoc]

theorem clearEvents_clearEvents (p q p' q' : Byte) (r : Regs) :
    clearEvents p' q' (clearEvents p q r) = clearEvents (p ||| p') (q ||| q') r := by
  simp only [clearEvents, clearFlags_clearFlags]

@[simp] theorem clearEvents_zero_zero (r : Regs) : clearEvents 0#8 0#8 r = r := by
  simp [clearEvents]

theorem clearEvents_press_only (p : Byte) (r : Regs) :
    clearEvents p 0 r = { r with keyPress := clearFlags r.keyPress p } := by
  simp [clearEvents]

theorem clearEvents_repeat_only (q : Byte) (r : Regs) :
    clearEvents 0 q r = { r with keyRpt := clearFlags r.keyRpt q } := by
  simp [clearEvents]

/-- Clearing the reported flags clears those of the mask (42_query.md R121). -/
theorem clearFlags_reported_bit (flags mask : Byte) (i : Line) :
    (clearFlags flags (flags &&& mask)).getLsbD i = (flags.getLsbD i && !mask.getLsbD i) := by
  rw [clearFlags_bit, BitVec.getLsbD_and]
  cases flags.getLsbD i <;> rfl

theorem clearFlags_reported_bit_of_mask (flags : Byte) {mask : Byte} {i : Line} (h : mask.getLsbD i = true) :
    (clearFlags flags (flags &&& mask)).getLsbD i = false := by
  rw [clearFlags_reported_bit, h, Bool.not_true, Bool.and_false]

theorem clearFlags_bit_of_cleared (flags : Byte) {bits : Byte} {i : Line} (h : bits.getLsbD i = true) :
    (clearFlags flags bits).getLsbD i = false := by
  rw [clearFlags_bit, h, Bool.not_true, Bool.and_false]

theorem clearFlags_bit_of_false {flags : Byte} (bits : Byte) {i : Line} (h : flags.getLsbD i = false) :
    (clearFlags flags bits).getLsbD i = false := by
  rw [clearFlags_bit, h, Bool.false_and]

/-! ## The lines of a report -/

theorem reported_bit (flags mask : Byte) (i : Line) :
    (flags &&& mask).getLsbD i = true ↔ mask.getLsbD i = true ∧ flags.getLsbD i = true := by
  rw [BitVec.getLsbD_and, Bool.and_eq_true, and_comm]

/-- The effective mask of `GET_SHORT`, line by line (42_query.md R124). -/
theorem releasedMask_bit (mask : Byte) (r : Regs) (i : Line) :
    (releasedMask mask r).getLsbD i = (mask.getLsbD i && !r.keyState.getLsbD i) :=
  clearFlags_bit mask r.keyState i

/-- The effective mask of `GET_LONG`'s second half, line by line (42_query.md R126). -/
theorem repeatedMask_bit (mask : Byte) (r : Regs) (i : Line) :
    (repeatedMask mask r).getLsbD i = true ↔ mask.getLsbD i = true ∧ r.keyRpt.getLsbD i = true :=
  reported_bit r.keyRpt mask i

/-- Where repeat events pend only for eligible lines, no report of them holds a line outside `REPEAT_MASK`. -/
theorem keyRpt_bit_of_not_eligible {s : State} {i : Line} (heligible : RepeatsEligible s)
    (hmask : s.cfg.repeatMask.getLsbD i = false) : s.regs.keyRpt.getLsbD i = false := by
  have hpending := (StateProofs.and_not_eq_zero_iff _ _).1 heligible i
  rw [hmask] at hpending
  exact Bool.eq_false_iff.2 fun h => Bool.false_ne_true (hpending h)

/-! ## The four queries -/

/-- The word of a query is its three bits K and F over the mask (30_encoding.md R71, R72). -/
theorem decodeWord_query {f : BitVec 2} {kf : BitVec 3} (h : (0 : BitVec 1) ++ f = kf) (mask : Byte) :
    decodeWord (kf ++ mask) = some (queryOfF f mask) := by
  subst h
  exact (WordEncoding.decodeWord_append 0 f mask).trans (if_pos rfl)

/-- Settles O35, by the equation of `GET_PRESS`. -/
theorem getPressReportsAndClears : Obligations.GetPressReportsAndClears := by
  intro mask s
  have hnext := exec_getPress mask s
  rw [clearEvents_press_only] at hnext
  refine ⟨decodeWord_query (f := 0b00) (by decide) mask, hnext, fun t v i hexec hv => ?_⟩
  cases hnext.symm.trans hexec
  cases hv
  exact ⟨reported_bit _ mask i, clearFlags_reported_bit _ mask i⟩

/-- Settles O36, by the equation of `GET_RPT`. -/
theorem getRptReportsAndClears : Obligations.GetRptReportsAndClears := by
  intro mask s
  have hnext := exec_getRpt mask s
  rw [clearEvents_repeat_only] at hnext
  refine ⟨decodeWord_query (f := 0b01) (by decide) mask, hnext, fun t v i hexec hv => ?_⟩
  cases hnext.symm.trans hexec
  cases hv
  refine ⟨reported_bit _ mask i, clearFlags_reported_bit _ mask i, fun heligible hmask => ?_⟩
  rw [BitVec.getLsbD_and, keyRpt_bit_of_not_eligible heligible hmask, Bool.false_and]

/-- Settles O37, by the equation of `GET_SHORT`: its effective mask leaves out the lines still pressed. -/
theorem getShortReportsReleasedPresses : Obligations.GetShortReportsReleasedPresses := by
  intro mask s
  have hnext := exec_getShort mask s
  rw [clearEvents_press_only] at hnext
  refine ⟨decodeWord_query (f := 0b10) (by decide) mask, hnext, fun t v i hexec hv => ?_⟩
  cases hnext.symm.trans hexec
  cases hv
  refine ⟨?_, clearFlags_bit _ _ i, fun hpressed => ?_⟩
  · rw [reported_bit, releasedMask_bit, Bool.and_eq_true, Bool.not_eq_true', and_assoc, and_comm (a := _ = false)]
  · rw [complete_regs, clearFlags_reported_bit, releasedMask_bit, hpressed, Bool.not_true, Bool.and_false,
      Bool.not_false, Bool.and_true]

/-- Settles O38, by the equation of `GET_LONG`: query-press with the repeat events it consumes as its mask. -/
theorem getLongReportsRepeatedPresses : Obligations.GetLongReportsRepeatedPresses := by
  intro mask s
  have hnext := exec_getLong mask s
  refine ⟨decodeWord_query (f := 0b11) (by decide) mask, hnext, fun t v i hexec hv => ?_⟩
  cases hnext.symm.trans hexec
  cases hv
  refine ⟨?_, clearFlags_reported_bit _ mask i, clearFlags_bit _ _ i, fun heligible hmask => ?_⟩
  · rw [reported_bit, repeatedMask_bit, and_assoc]
  · rw [BitVec.getLsbD_and, repeatedMask, BitVec.getLsbD_and, keyRpt_bit_of_not_eligible heligible hmask,
      Bool.false_and, Bool.and_false]

/-! ## Every query, by its F field -/

theorem isQuery_iff_queryOfF (q : Instr) : isQuery q = true ↔ ∃ op mask, q = queryOfF op mask := by
  constructor
  · intro hq
    obtain ⟨raw, rfl⟩ | h := TraceText.eq_tick_or_eq_queryOfF q
    · cases hq
    · exact h
  · rintro ⟨op, mask, rfl⟩
    obtain rfl | rfl | rfl | rfl := SharedCycle.queryOp_cases op <;> rfl

/-- 42_query.md R128: a query answers in every state, by clearing event flags and returning a result. -/
theorem exec_query {q : Instr} (hq : isQuery q = true) (s : State) :
    ∃ p r v : Byte, exec q s = .next (s.complete (clearEvents p r s.regs) (some v)) := by
  obtain ⟨op, mask, rfl⟩ := (isQuery_iff_queryOfF q).1 hq
  exact ⟨_, _, _, SharedCycle.exec_queryOfF op mask s⟩

/-- Settles O39: with mask 0x00 each query's equation clears and reports no bit. -/
theorem queriesAreTotal : Obligations.QueriesAreTotal := by
  constructor
  · intro q s hq
    obtain ⟨p, r, v, hexec⟩ := exec_query hq s
    exact ⟨_, v, hexec, rfl⟩
  · intro q s hq hmask
    cases q with
    | getPress mask => cases hmask; simp [exec_getPress, State.complete]
    | getRpt mask => cases hmask; simp [exec_getRpt, State.complete]
    | getShort mask => cases hmask; simp [exec_getShort, releasedMask, State.complete]
    | getLong mask => cases hmask; simp [exec_getLong, repeatedMask, State.complete]
    | tick raw => cases hq

/-! ## Queries with no tick between -/

theorem execAll_cons {i : Instr} {s t : State} (h : exec i s = .next t) (is : List Instr) :
    execAll (i :: is) s = execAll is t := by
  rw [execAll, h]

/-- Any number of queries, like one, completes and only clears event flags (10_state.md R28). -/
theorem execAll_queries {qs : List Instr} (hqs : ∀ q ∈ qs, isQuery q = true) (s : State) :
    ∃ t p r, execAll qs s = .next t ∧ t.regs = clearEvents p r s.regs := by
  induction qs generalizing s with
  | nil => exact ⟨s, 0, 0, rfl, (clearEvents_zero_zero s.regs).symm⟩
  | cons q qs ih =>
    obtain ⟨hq, hrest⟩ := List.forall_mem_cons.1 hqs
    obtain ⟨p, r, v, hexec⟩ := exec_query hq s
    obtain ⟨t, p', r', hall, hregs⟩ := ih hrest (s.complete (clearEvents p r s.regs) (some v))
    rw [complete_regs, clearEvents_clearEvents] at hregs
    exact ⟨t, _, _, (execAll_cons hexec qs).trans hall, hregs⟩

/-- Of cleared flags a mask selects what is left of the flags it selected before. -/
theorem clearFlags_and (flags bits mask : Byte) :
    clearFlags flags bits &&& mask = clearFlags (flags &&& mask) bits := by
  rw [clearFlags, clearFlags, BitVec.and_assoc, BitVec.and_comm _ mask, BitVec.and_assoc]

theorem and_clearFlags (mask flags bits : Byte) :
    mask &&& clearFlags flags bits = clearFlags (mask &&& flags) bits :=
  (BitVec.and_assoc ..).symm

theorem clearFlags_and_of_zero {flags mask : Byte} (bits : Byte) (h : flags &&& mask = 0#8) :
    clearFlags flags bits &&& mask = 0#8 := by
  rw [clearFlags_and, h, zero_clearFlags]

/-- What was reported is gone from the mask. -/
theorem clearFlags_reported_and (flags mask : Byte) : clearFlags flags (flags &&& mask) &&& mask = 0#8 := by
  rw [clearFlags_and]
  exact BitVec.and_not_self _

/-- A query with nothing to report gets nothing to report by other queries (42_query.md R129). -/
theorem queryAnswer_clearEvents_of_zero {op : BitVec 2} {mask : Byte} {r : Regs} (p q : Byte)
    (h : queryAnswer op mask r = 0#8) : queryAnswer op mask (clearEvents p q r) = 0#8 := by
  obtain rfl | rfl | rfl | rfl := SharedCycle.queryOp_cases op
  · exact clearFlags_and_of_zero (flags := r.keyPress) p h
  · exact clearFlags_and_of_zero (flags := r.keyRpt) q h
  · exact clearFlags_and_of_zero (flags := r.keyPress) (mask := mask &&& ~~~r.keyState) p h
  · change clearFlags r.keyPress p &&& (clearFlags r.keyRpt q &&& mask) = 0#8
    rw [clearFlags_and r.keyRpt, and_clearFlags, clearFlags_and_of_zero p h, zero_clearFlags]

/-- A query leaves itself nothing to report (42_query.md R129). -/
theorem queryAnswer_after_query (op : BitVec 2) (mask : Byte) (r : Regs) :
    queryAnswer op mask (clearEvents (clearedPress op mask r) (clearedRepeat op mask r) r) = 0#8 := by
  obtain rfl | rfl | rfl | rfl := SharedCycle.queryOp_cases op
  · exact clearFlags_reported_and r.keyPress mask
  · exact clearFlags_reported_and r.keyRpt mask
  · exact clearFlags_reported_and r.keyPress (mask &&& ~~~r.keyState)
  · have hrepeat : clearFlags r.keyRpt (r.keyRpt &&& mask) &&& mask = 0#8 := clearFlags_reported_and r.keyRpt mask
    exact (congrArg (_ &&& ·) hrepeat).trans BitVec.and_zero

/-- Settles O40: the query leaves itself nothing to report, and the queries between do not change that. -/
theorem sameQueryTwiceReturnsZero : Obligations.SameQueryTwiceReturnsZero := by
  intro q between s hq hbetween
  obtain ⟨op, mask, rfl⟩ := (isQuery_iff_queryOfF q).1 hq
  have hfirst := SharedCycle.exec_queryOfF op mask s
  obtain ⟨t, p, r, hall, hregs⟩ := execAll_queries hbetween (s.complete _ (some (queryAnswer op mask s.regs)))
  refine ⟨_, t, _, hfirst, hall, SharedCycle.exec_queryOfF op mask t, congrArg some ?_⟩
  rw [hregs]
  exact queryAnswer_clearEvents_of_zero p r (queryAnswer_after_query op mask s.regs)

/-- What a query that answers with `v` reports and clears on a line, by the vectors it draws on (42_query.md R130). -/
theorem exec_line {q : Instr} {s t : State} {v : Byte} (i : Line) (h : exec q s = .next t) (hv : t.result = some v) :
    (v.getLsbD i = true → q.operand.getLsbD i = true ∧
      (consumesPress q = true → s.regs.keyPress.getLsbD i = true) ∧
      (consumesRepeat q = true → s.regs.keyRpt.getLsbD i = true)) ∧
    (consumesPress q = true → v.getLsbD i = true → t.regs.keyPress.getLsbD i = false) ∧
    (consumesRepeat q = true → q.operand.getLsbD i = true → t.regs.keyRpt.getLsbD i = false) := by
  cases q with
  | getPress mask =>
    rw [exec_getPress] at h
    cases h
    cases hv
    refine ⟨fun hreported => ?_, fun _ => clearFlags_bit_of_cleared _, nofun⟩
    obtain ⟨hmask, hpress⟩ := (reported_bit _ mask i).1 hreported
    exact ⟨hmask, fun _ => hpress, nofun⟩
  | getRpt mask =>
    rw [exec_getRpt] at h
    cases h
    cases hv
    refine ⟨fun hreported => ?_, nofun, fun _ => clearFlags_reported_bit_of_mask _⟩
    obtain ⟨hmask, hrepeat⟩ := (reported_bit _ mask i).1 hreported
    exact ⟨hmask, nofun, fun _ => hrepeat⟩
  | getShort mask =>
    rw [exec_getShort] at h
    cases h
    cases hv
    refine ⟨fun hreported => ?_, fun _ => clearFlags_bit_of_cleared _, nofun⟩
    obtain ⟨heffective, hpress⟩ := (reported_bit _ _ i).1 hreported
    rw [releasedMask_bit, Bool.and_eq_true] at heffective
    obtain ⟨hmask, -⟩ := heffective
    exact ⟨hmask, fun _ => hpress, nofun⟩
  | getLong mask =>
    rw [exec_getLong] at h
    cases h
    cases hv
    refine ⟨fun hreported => ?_, fun _ => clearFlags_bit_of_cleared _, fun _ => clearFlags_reported_bit_of_mask _⟩
    obtain ⟨heffective, hpress⟩ := (reported_bit _ _ i).1 hreported
    obtain ⟨hmask, hrepeat⟩ := (repeatedMask_bit mask _ i).1 heffective
    exact ⟨hmask, fun _ => hpress, fun _ => hrepeat⟩
  | tick raw =>
    rw [exec_tick] at h
    cases h
    cases hv

/-- Settles O41: a consumed event stays cleared over the queries between, and a report needs its event pending. -/
theorem resultsAreSharedSubsets : Obligations.ResultsAreSharedSubsets := by
  constructor
  · intro q s t v i _ hexec hv
    obtain ⟨hsubset, -, -⟩ := exec_line i hexec hv
    exact hsubset
  · intro q q' between s t1 t2 t3 v v' i hbetween hexec hall hexec' hv hv'
    obtain ⟨u, p, r, hall', hregs⟩ := execAll_queries hbetween t1
    cases hall.symm.trans hall'
    obtain ⟨-, hpress, hrepeat⟩ := exec_line i hexec hv
    obtain ⟨hsubset, -, -⟩ := exec_line i hexec' hv'
    rw [hregs] at hsubset
    refine ⟨fun hq hq' hreported => ?_, fun hq hq' hmask => ?_⟩
    · have hgone := clearFlags_bit_of_false p (hpress hq hreported)
      refine Bool.eq_false_iff.2 fun hagain => ?_
      obtain ⟨-, hpending, -⟩ := hsubset hagain
      exact Bool.eq_false_iff.1 hgone (hpending hq')
    · have hgone := clearFlags_bit_of_false r (hrepeat hq hmask)
      refine Bool.eq_false_iff.2 fun hagain => ?_
      obtain ⟨-, -, hpending⟩ := hsubset hagain
      exact Bool.eq_false_iff.1 hgone (hpending hq')

/-! ## `GET_LONG` in two events -/

/-- A tick takes no press event away (10_state.md R28). -/
theorem keyPress_bit_of_tick {raw : Byte} {c : Config} {r : Regs} {i : Line} (h : r.keyPress.getLsbD i = true) :
    (tickRegs c raw r).keyPress.getLsbD i = true := by
  rw [SharedCycle.tickRegs_keyPress_bit, h, Bool.true_or]

/-- Settles O42: the two halves compose to `GET_LONG`, and a tick between them only sets press events. -/
theorem getLongIsGetRptThenGetPress : Obligations.GetLongIsGetRptThenGetPress := by
  constructor
  · intro mask s
    refine ⟨_, _, _, _, exec_getRpt mask s, rfl, exec_getPress _ _, exec_getLong mask s, ?_⟩
    simp [State.complete, clearEvents_clearEvents, repeatedMask]
  · intro mask raw s
    refine ⟨_, _, _, _, _, _, _, exec_getRpt mask s, rfl, exec_tick raw _, exec_getPress _ _, rfl,
      exec_getLong mask s, rfl, fun i => ?_⟩
    rw [clearEvents_repeat_only]
    rw [reported_bit, reported_bit]
    exact ⟨fun ⟨hrepeat, hpress⟩ => ⟨hrepeat, keyPress_bit_of_tick hpress⟩, fun ⟨hrepeat, _⟩ => hrepeat⟩

end Sys2Proof.QueryEvents

namespace Sys2Proof.EngineIsolation

open Sys2Proof.Machine Sys2Proof.Laws Sys2Proof.StepEffect

/-! ## The engine's part of each event -/

/-- The engine after `TICK(raw)`: the tick of registers that hold it and no event. -/
def tickEngine (c : Config) (raw : Byte) (g : EngineRegs) : EngineRegs :=
  (tickRegs c raw
    { keyState := g.keyState, keyPress := 0, keyRpt := 0, ct0 := g.ct0, ct1 := g.ct1, rpt := g.rpt }).engine

/-- The engine after an operation: only a tick changes it (42_query.md R131). -/
def instrEngine (c : Config) (i : Instr) (g : EngineRegs) : EngineRegs :=
  match i with
  | .tick raw => tickEngine c raw g
  | .getPress _ | .getRpt _ | .getShort _ | .getLong _ => g

/-- The engine after an event. -/
def eventEngine (c : Config) (g : EngineRegs) : Event → EngineRegs
  | .reset => Regs.reset.engine
  | .word lo hi => (fetchInstr lo hi).elim g (instrEngine c · g)

/-- A tick reads no event flag on its way to the engine's registers (10_state.md R27). -/
theorem engine_tickRegs (c : Config) (raw : Byte) (r : Regs) :
    (tickRegs c raw r).engine = tickEngine c raw r.engine := rfl

theorem engine_clearEvents (p q : Byte) (r : Regs) : (clearEvents p q r).engine = r.engine := rfl

theorem instrEngine_of_query {q : Instr} (hq : isQuery q = true) (c : Config) (g : EngineRegs) :
    instrEngine c q g = g := by
  cases q with
  | tick raw => cases hq
  | getPress mask | getRpt mask | getShort mask | getLong mask => rfl

theorem exec_engine (i : Instr) (s : State) :
    ∃ t, exec i s = .next t ∧ t.cfg = s.cfg ∧ t.pending = s.pending ∧
      t.regs.engine = instrEngine s.cfg i s.regs.engine := by
  cases hq : isQuery i with
  | true =>
    obtain ⟨p, r, v, hexec⟩ := QueryEvents.exec_query hq s
    exact ⟨_, hexec, rfl, rfl, (instrEngine_of_query hq _ _).symm⟩
  | false =>
    obtain ⟨raw, rfl⟩ := (isQuery_eq_false_iff i).1 hq
    exact ⟨_, exec_tick raw s, rfl, rfl, engine_tickRegs s.cfg raw s.regs⟩

/-! ## Legal events -/

theorem opWord_legal_append (k : BitVec 1) (f : BitVec 2) (d : Byte) :
    OpWord.legal (k ++ f ++ d) = (k == 0 || f == 0) := by
  have h : OpWord.legal (k ++ f ++ d) = (!k.getLsbD 0 || (!f.getLsbD 1 && !f.getLsbD 0)) := by
    simp only [OpWord.legal, BitVec.getLsbD_append]
    rfl
  rw [h]
  clear h
  revert k f
  decide

theorem decodeWord_of_legal {w : OpWord} (h : w.legal = true) : ∃ i, decodeWord w = some i := by
  obtain ⟨k, f, d, rfl⟩ := WordEncoding.opWord_exists_fields w
  rw [opWord_legal_append, Bool.or_eq_true, beq_iff_eq, beq_iff_eq] at h
  rw [WordEncoding.decodeWord_append]
  by_cases hk : k = 0
  · exact ⟨_, if_pos hk⟩
  · rw [if_neg hk, if_pos (h.resolve_left hk)]
    exact ⟨_, rfl⟩

/-- 30_encoding.md R75, R76: a legal stored word holds an operation. -/
theorem fetchInstr_of_legal {lo hi : Byte} (h : (Event.word lo hi).legal = true) : ∃ i, fetchInstr lo hi = some i := by
  rw [Event.legal, StoredWord.legal, Bool.and_eq_true, beq_iff_eq] at h
  obtain ⟨htop, hword⟩ := h
  rw [fetchInstr_eq, decodeStored, if_pos htop]
  exact decodeWord_of_legal hword

/-! ## Runs of events -/

theorem step_engine {s : State} {e : Event} {rest : List Event} (hpending : s.pending = e :: rest)
    (hlegal : e.legal = true) :
    ∃ t, step s = .next t ∧ t.cfg = s.cfg ∧ t.pending = rest ∧
      t.regs.engine = eventEngine s.cfg s.regs.engine e := by
  cases e with
  | reset => exact ⟨_, step_of_reset s rest hpending, rfl, rfl, rfl⟩
  | word lo hi =>
    obtain ⟨i, hfetch⟩ := fetchInstr_of_legal hlegal
    rw [step_of_word s lo hi rest i hpending hfetch, eventEngine, hfetch]
    exact exec_engine i { s with pending := rest }

/-- A run of all legal pending events takes the engine through them one after the other. -/
theorem run_engine {s : State} (hlegal : ∀ e ∈ s.pending, e.legal = true) :
    ∃ t : State, core.run s.pending.length s = .next t ∧
      t.regs.engine = s.pending.foldl (eventEngine s.cfg) s.regs.engine := by
  generalize hpending : s.pending = es at hlegal ⊢
  induction es generalizing s with
  | nil => exact ⟨s, rfl, rfl⟩
  | cons e rest ih =>
    obtain ⟨he, hrest⟩ := List.forall_mem_cons.1 hlegal
    obtain ⟨u, hstep, hcfg, hpending', hengine⟩ := step_engine hpending he
    obtain ⟨t, hrun, ht⟩ := ih hpending' hrest
    refine ⟨t, ?_, by rw [ht, hcfg, hengine, List.foldl_cons]⟩
    rw [List.length_cons, Nat.add_comm, PortCycles.run_add (PortCycles.run_one hstep), hrun]

/-! ## The consumer's events drop out -/

theorem isEngine_word (lo hi : Byte) : (Event.word lo hi).isEngine = (fetchInstr lo hi).any (!isQuery ·) := by
  rw [Event.isEngine]
  cases fetchInstr lo hi with
  | none => rfl
  | some i => cases i <;> rfl

theorem eventEngine_of_not_isEngine {e : Event} (h : e.isEngine = false) (c : Config) (g : EngineRegs) :
    eventEngine c g e = g := by
  cases e with
  | reset => cases h
  | word lo hi =>
    rw [isEngine_word] at h
    rw [eventEngine]
    cases hfetch : fetchInstr lo hi with
    | none => rfl
    | some i =>
      rw [hfetch, Option.any_some, Bool.not_eq_false'] at h
      exact instrEngine_of_query h c g

/-- Where the engine ends is decided by the tick and reset events alone (42_query.md R131). -/
theorem foldl_eventEngine_filter (c : Config) (es : List Event) (g : EngineRegs) :
    (es.filter Event.isEngine).foldl (eventEngine c) g = es.foldl (eventEngine c) g := by
  induction es generalizing g with
  | nil => rfl
  | cons e rest ih =>
    cases he : e.isEngine with
    | true => rw [List.filter_cons_of_pos he, List.foldl_cons, List.foldl_cons, ih]
    | false =>
      rw [List.filter_cons_of_neg (Bool.eq_false_iff.1 he), List.foldl_cons, eventEngine_of_not_isEngine he, ih]

/-- Settles O45: each run ends with the engine that its tick and reset events alone lead to (`run_engine`,
`foldl_eventEngine_filter`). -/
theorem queriesDoNotDisturbEngine : Obligations.QueriesDoNotDisturbEngine := by
  constructor
  · intro q s hq
    obtain ⟨p, r, v, hexec⟩ := QueryEvents.exec_query hq s
    exact ⟨_, hexec, engine_clearEvents p r s.regs⟩
  · intro s s' hcfg hengine hlegal hlegal' hfilter
    obtain ⟨t, hrun, ht⟩ := run_engine hlegal
    obtain ⟨t', hrun', ht'⟩ := run_engine hlegal'
    refine ⟨t, t', hrun, hrun', ?_⟩
    rw [ht, ht', ← foldl_eventEngine_filter s.cfg, ← foldl_eventEngine_filter s'.cfg, hcfg, hengine, hfilter]

end Sys2Proof.EngineIsolation

namespace Sys2Proof.StepTotality

open Sys2Proof.Machine Sys2Proof.Laws

/-! ## Every event is defined -/

theorem exec_completes (i : Instr) (s : State) : Completes (exec i s) := by
  obtain ⟨r, v, hexec⟩ := AtomicEvents.exec_eq_complete i s
  exact ⟨s.complete r v, hexec⟩

/-- A step either answers a next state or is refused by the decoder; it has no third outcome (60_exceptions.md R140,
R142). The proof walks the branches of `step` and does not use that `Fault` is empty. -/
theorem step_completes_or_refused (s : State) : Completes (step s) ∨ ∃ why, step s = .refused why := by
  cases hp : s.pending with
  | nil => exact .inl ⟨_, step_of_empty s hp⟩
  | cons e rest =>
    cases e with
    | reset => exact .inl ⟨_, step_of_reset s rest hp⟩
    | word lo hi =>
      cases hf : fetchInstr lo hi with
      | none => exact .inr ⟨_, step_of_reserved s lo hi rest hp hf⟩
      | some i =>
        rw [step_of_word s lo hi rest i hp hf]
        exact .inl (exec_completes i _)

theorem step_ne_fault (s : State) (f : Fault) : step s ≠ .fault f := by
  intro hfault
  obtain ⟨t, hnext⟩ | ⟨why, hrefused⟩ := step_completes_or_refused s
  · rw [hnext] at hfault
    cases hfault
  · rw [hrefused] at hfault
    cases hfault

/-- A refused step has a reserved word as its oldest event (`step_refused_iff`), and a reserved word is not legal. -/
theorem step_completes_of_legal {s : State} (hlegal : ∀ e ∈ s.pending.head?, e.legal = true) : Completes (step s) := by
  obtain hnext | ⟨why, hrefused⟩ := step_completes_or_refused s
  · exact hnext
  · obtain ⟨lo, hi, rest, hp, hnone, -⟩ := (PortCycles.step_refused_iff s why).1 hrefused
    have hword : (Event.word lo hi).legal = true := hlegal _ (by rw [hp]; rfl)
    obtain ⟨i, hsome⟩ := EngineIsolation.fetchInstr_of_legal hword
    rw [hnone] at hsome
    cases hsome

/-- Settles O8: operations by `exec_completes`, `RESET` by `step_of_reset`, and steps by
`step_completes_or_refused`. -/
theorem noOperationFaults : Obligations.NoOperationFaults :=
  ⟨exec_completes, fun s rest hp => ⟨_, step_of_reset s rest hp⟩, step_ne_fault, fun _ => step_completes_of_legal⟩

end Sys2Proof.StepTotality
